-- ==== Sys2Proof/Word.lean ====
section
/-! DEFINITION. The fixed widths of the block's words and the two small aggregates of bytes and steps
the spec speaks of (00_scope.md R6, R11, R12). -/

namespace Sys2Proof

/-- A register's contents, or one byte of a step pair (R6: data width 8). -/
abbrev Byte := BitVec 8

/-- A 7-bit device address, the source's `int7` (R6, R21). -/
abbrev DevAddr := BitVec 7

/-- A register number of the target (R6: 8 bits). -/
abbrev RegNum := BitVec 8

/-- A step, an integer in [0, 4096) held in 12 bits (R6, R11). -/
abbrev Step := BitVec 12

/-- A command word (R80). -/
abbrev CmdWord := BitVec 40

/-- A response word (R90). -/
abbrev RspWord := BitVec 16

/-- A channel, an identifier in the closed set 0..15 (R11). -/
abbrev Channel := Fin 16

/-- The pair (onStep, offStep) of a channel (R11). -/
structure StepPair where
  on : Step
  off : Step
  deriving DecidableEq, Repr

/-- Four bytes in the order onLow, onHigh, offLow, offHigh: the contents of a channel window (R97) and
the read buffer blk.rd[0..3] (R23). -/
structure Window where
  onLow : Byte
  onHigh : Byte
  offLow : Byte
  offHigh : Byte
  deriving DecidableEq, Repr

end Sys2Proof
end

