-- ==== Sys2Proof/Syntax.lean ====
section
/-! DEFINITION. The commands (30_encoding.md R81), one constructor per row of spec/opcode_table.json. -/

namespace Sys2Proof

/-- A command with its operands. Signed operands are the integers the spec compares (R84 to R86, R135 f);
`duty` is the numerator of the Q16.16 operand, the duty cycle being `duty / 65536` (R86). -/
inductive Instr where
  /-- `construct dev` (R82, R161). -/
  | construct (dev : DevAddr)
  /-- `soft_reset` (R83, R162). -/
  | softReset
  /-- `set_frequency hz` (R84, R163). -/
  | setFrequency (hz : Int)
  /-- `write_steps ch, on, off` (R85, R164). -/
  | writeSteps (ch : Channel) (on off : Int)
  /-- `write_duty_cycle ch, duty` (R86, R165). -/
  | writeDutyCycle (ch : Channel) (duty : Int)
  /-- `read_duty_cycle ch` (R87, R166). -/
  | readDutyCycle (ch : Channel)
  /-- `reset_all_channels` (R88, R167). -/
  | resetAllChannels
  deriving DecidableEq, Repr

/-- The command's name in the spec's text (R81). -/
def Instr.mnemonic : Instr → String
  | .construct _ => "construct"
  | .softReset => "soft_reset"
  | .setFrequency _ => "set_frequency"
  | .writeSteps _ _ _ => "write_steps"
  | .writeDutyCycle _ _ => "write_duty_cycle"
  | .readDutyCycle _ => "read_duty_cycle"
  | .resetAllChannels => "reset_all_channels"

end Sys2Proof
end

