-- ==== Sys2Proof/WellFormed.lean ====
section
/-! DEFINITION. Which commands a command word can express (30_encoding.md R82 to R88): the operands fit
their fields. Device address and channel fit by their types. -/

namespace Sys2Proof

/-- `v` fits an `n`-bit two's-complement field. -/
def fitsSigned (n : Nat) (v : Int) : Bool :=
  decide (-(2 ^ (n - 1) : Nat) ≤ v) && decide (v < (2 ^ (n - 1) : Nat))

/-- Every signed operand fits its field: 32 bits for hertz (R84) and duty (R86), 16 bits for each step
(R85). -/
def Instr.wellFormed : Instr → Bool
  | .construct _ => true
  | .softReset => true
  | .setFrequency hz => fitsSigned 32 hz
  | .writeSteps _ on off => fitsSigned 16 on && fitsSigned 16 off
  | .writeDutyCycle _ duty => fitsSigned 32 duty
  | .readDutyCycle _ => true
  | .resetAllChannels => true

end Sys2Proof
end

