-- ==== Sys2Proof/Decode.lean ====
section
/-! DEFINITION. The command word (30_encoding.md R80): its fields, the decoder, the encoder, and the
opcode table as mask and match (R89). -/

namespace Sys2Proof

/-- `op`, bits 39:36 (R80). -/
def wordOp (w : CmdWord) : BitVec 4 := w.extractLsb' 36 4

/-- `ch`, bits 35:32 (R80). -/
def wordCh (w : CmdWord) : BitVec 4 := w.extractLsb' 32 4

/-- `arg`, bits 31:0 (R80). -/
def wordArg (w : CmdWord) : BitVec 32 := w.extractLsb' 0 32

/-- Bits 31:7 of the word, which `construct` requires to be 0 (R82). -/
def wordArgHigh (w : CmdWord) : BitVec 25 := w.extractLsb' 7 25

/-- Bits 6:0 of the word, `construct`'s device address (R82). -/
def wordDev (w : CmdWord) : DevAddr := w.extractLsb' 0 7

/-- `arg[31:16]`, `write_steps`' onStep field (R85). -/
def wordOn (w : CmdWord) : BitVec 16 := w.extractLsb' 16 16

/-- `arg[15:0]`, `write_steps`' offStep field (R85). -/
def wordOff (w : CmdWord) : BitVec 16 := w.extractLsb' 0 16

/-- The channel a `ch` field names; every value is a channel (R80). -/
def channelOf (ch : BitVec 4) : Channel := ⟨ch.toNat, ch.isLt⟩

/-- Why a word is illegal (R89). -/
inductive IllegalWord where
  /-- `op` is 0x7 to 0xF. -/
  | reservedOperation
  /-- `ch` is not 0 though the operation requires it. -/
  | channelNotZero
  /-- `arg`, or the part of it the operation requires to be 0, is not 0. -/
  | argumentNotZero
  deriving DecidableEq, Repr

/-- Accept `i` if the must-be-zero fields of its operation are zero (R89). -/
def requireZero (chZero argZero : Bool) (i : Instr) : Except IllegalWord Instr :=
  if !chZero then .error .channelNotZero
  else if !argZero then .error .argumentNotZero
  else .ok i

/-- The decoder, total on the 2^40 words (R81 to R89). -/
def decode (w : CmdWord) : Except IllegalWord Instr :=
  match (wordOp w).toNat with
  | 0 => requireZero (wordCh w == 0) (wordArgHigh w == 0) (.construct (wordDev w))
  | 1 => requireZero (wordCh w == 0) (wordArg w == 0) .softReset
  | 2 => requireZero (wordCh w == 0) true (.setFrequency (wordArg w).toInt)
  | 3 => .ok (.writeSteps (channelOf (wordCh w)) (wordOn w).toInt (wordOff w).toInt)
  | 4 => .ok (.writeDutyCycle (channelOf (wordCh w)) (wordArg w).toInt)
  | 5 => requireZero true (wordArg w == 0) (.readDutyCycle (channelOf (wordCh w)))
  | 6 => requireZero (wordCh w == 0) (wordArg w == 0) .resetAllChannels
  | _ => .error .reservedOperation

/-- The word with the three fields of R80. -/
def commandWord (op ch : BitVec 4) (arg : BitVec 32) : CmdWord := op ++ ch ++ arg

/-- The `ch` field that names a channel. -/
def channelField (ch : Channel) : BitVec 4 := BitVec.ofNat 4 ch.val

/-- The word of a command (R82 to R88); for a well-formed command the one word that decodes to it. -/
def encode : Instr → CmdWord
  | .construct dev => commandWord 0 0 (dev.setWidth 32)
  | .softReset => commandWord 1 0 0
  | .setFrequency hz => commandWord 2 0 (BitVec.ofInt 32 hz)
  | .writeSteps ch on off => commandWord 3 (channelField ch) (BitVec.ofInt 16 on ++ BitVec.ofInt 16 off)
  | .writeDutyCycle ch duty => commandWord 4 (channelField ch) (BitVec.ofInt 32 duty)
  | .readDutyCycle ch => commandWord 5 (channelField ch) 0
  | .resetAllChannels => commandWord 6 0 0

/-- A row of the opcode table: a word belongs to it when `word & mask = match` (R89). -/
structure OpcodeRow where
  mnemonic : String
  mask : CmdWord
  value : CmdWord
  deriving DecidableEq, Repr

/-- The table of R89, transcribed. The decoder does not read it; that the two agree is a statement. -/
def opcodeTable : List OpcodeRow :=
  [ ⟨"construct", 0xFFFFFFFF80, 0x0000000000⟩,
    ⟨"soft_reset", 0xFFFFFFFFFF, 0x1000000000⟩,
    ⟨"set_frequency", 0xFF00000000, 0x2000000000⟩,
    ⟨"write_steps", 0xF000000000, 0x3000000000⟩,
    ⟨"write_duty_cycle", 0xF000000000, 0x4000000000⟩,
    ⟨"read_duty_cycle", 0xF0FFFFFFFF, 0x5000000000⟩,
    ⟨"reset_all_channels", 0xFFFFFFFFFF, 0x6000000000⟩ ]

/-- The word belongs to the row. -/
def OpcodeRow.holds (r : OpcodeRow) (w : CmdWord) : Bool := w &&& r.mask == r.value

/-- The word on the command port whose bits are `w`, numbered from the least significant (R80: the word
is parallel and has no byte order). -/
def tableWord (nbits w : Nat) : CmdWord := BitVec.ofNat 40 (w % 2 ^ nbits)

/-- The command the decoder reads from a word of the opcode table; a word longer than 40 bits is none
(R94). -/
def decodeTableWord (nbits w : Nat) : Option Instr :=
  if nbits ≤ 40 then (decode (tableWord nbits w)).toOption else none

end Sys2Proof
end

