-- ==== Sys2Proof/Config.lean ====
section
/-! DEFINITION. The constants the source fixes (00_scope.md R6), the parameters it leaves open (R7) and
the one free value of the model, the power-on contents of the targets (R241). -/

namespace Sys2Proof

/-- MODE1's register number (R6). -/
def Config.regMode1 : RegNum := 0x00

/-- MODE2's register number (R6). -/
def Config.regMode2 : RegNum := 0x01

/-- PRESCALE's register number (R6). -/
def Config.regPrescale : RegNum := 0xFE

/-- The MODE2 value for totem-pole output (R6, R98). -/
def Config.mode2Totem : Byte := 0x04

/-- N_STEPS, the steps of one PWM cycle (R6). -/
def Config.nSteps : Nat := 4096

/-- DUTY_DEN, the divisor and multiplier of the duty conversions (R6). -/
def Config.dutyDen : Nat := 4095

/-- OSC_HZ, the fixed internal clock constant (R6). -/
def Config.oscHz : Nat := 25000000

/-- FREQ_MIN, the lowest accepted frequency (R6). -/
def Config.freqMin : Nat := 40

/-- FREQ_MAX, the highest accepted frequency (R6). -/
def Config.freqMax : Nat := 1000

/-- CH_BASE0, the register number of channel 0 ON-low (R6). -/
def Config.chBase0 : Nat := 6

/-- CH_STRIDE, the registers of one channel (R6). -/
def Config.chStride : Nat := 4

/-- The tie rule of `round`, parameter ROUND (R7, R125): what is taken when a value is exactly half way
between two integers. Every rule here rounds to nearest. -/
inductive TieRule where
  | halfAwayFromZero
  | halfTowardZero
  | halfToEven
  | halfToOdd
  deriving DecidableEq, Repr

/-- How a device address selects registers. -/
inductive TargetSpace where
  /-- Each device address selects its own 256 registers (R27). -/
  | perDevice
  /-- All device addresses select the same 256 registers: "The device address is ignored" (R65). -/
  | shared
  deriving DecidableEq, Repr

/-- What is fixed for one machine: the parameters of R7, and which of the two register spaces the targets
have (log 4). -/
structure Config where
  mode1Normal : Byte
  mode1Sleep : Byte
  mode1Wake : Byte
  sleepBit : Fin 8
  tie : TieRule
  /-- TARGET_INIT: the power-on contents of registers 0 to 255, or unknown (R7, R241; log 5). -/
  targetInit : Option (Vector Byte 256)
  space : TargetSpace
  deriving DecidableEq, Repr

/-- The defaults of R7. PRESUMED: they are the spec's own general-knowledge values (93 G1, G2; log 9,
log 10); TARGET_INIT is unknown (R7); the register space is that of R27 (log 4). -/
def Config.default : Config where
  mode1Normal := 0x00
  mode1Sleep := 0x10
  mode1Wake := 0x00
  sleepBit := 4
  tie := .halfAwayFromZero
  targetInit := none
  space := .perDevice

/-- The constraint column of R7: the sleep bit is set in MODE1_SLEEP and clear in the other two. -/
def Config.wf (c : Config) : Bool :=
  c.mode1Sleep.getLsbD c.sleepBit.val && !c.mode1Normal.getLsbD c.sleepBit.val &&
    !c.mode1Wake.getLsbD c.sleepBit.val

/-- FREE VALUE: what the register at an address holds that no transaction has written, where TARGET_INIT is
unknown (R241, 93 U13; log 5). It has no body, so nothing can be proved of it. -/
opaque Config.unknownByte : Nat → Byte

end Sys2Proof
end

