-- ==== Sys2Proof/Machine/State.lean ====
section
/-! DEFINITION. The state of the machine (10_state.md): the block's registers, its ports, the bus targets'
registers, and the environment's coming moves as plain data. -/

namespace Sys2Proof.Machine

/-- The lifecycle phase, blk.phase (R22). -/
inductive Phase where
  | uninitialized
  | reset
  | configured
  | active
  deriving DecidableEq, Repr

/-- The 2-bit value of the phase register (R22). -/
def Phase.code : Phase → BitVec 2
  | .uninitialized => 0
  | .reset => 1
  | .configured => 2
  | .active => 3

/-- One bus transaction of a command's sequence (R50, R96); the device address is the state's. -/
inductive Txn where
  /-- `write_register(dev, reg, value)`. -/
  | write (reg : RegNum) (value : Byte)
  /-- `read_register(dev, reg)`. -/
  | read (reg : RegNum)
  deriving DecidableEq, Repr

/-- The register a transaction addresses. -/
def Txn.reg : Txn → RegNum
  | .write reg _ => reg
  | .read reg => reg

/-- What the addressed register holds once a transaction is over, where the spec leaves it open (93 U1, U3,
U8, D19): its old byte, the byte written, or any other byte. -/
inductive Residue where
  | old
  | new
  | byte (b : Byte)
  deriving DecidableEq, Repr

/-- A register of a target that comes to hold another byte. -/
structure TargetChange where
  dev : DevAddr
  reg : RegNum
  value : Byte
  deriving DecidableEq, Repr

/-- The bus's answer to one transaction (R50, R52). `also` is what a read changes beside the register it
addresses, which R59 and D19 leave unconstrained (log 16). -/
inductive BusAnswer where
  /-- The answer of a plain store (R65): `ok`, a write is taken, a read returns the byte held. -/
  | plain
  /-- `ok` from any other target (93 U8, D19): a read returns `rdata`, the register then holds `after`. -/
  | ok (rdata : Byte) (after : Residue) (also : List TargetChange)
  /-- `err` (R52); what the register then holds is open (93 U1). -/
  | err (after : Residue) (also : List TargetChange)
  /-- No answer, ever (R53, 93 U14): the block waits. -/
  | silent
  deriving DecidableEq, Repr

/-- Who issued a transaction (R8). -/
inductive Master where
  | block
  | other
  deriving DecidableEq, Repr

/-- The outcome of a transaction (R50). -/
inductive BusOutcome where
  | ok
  | okByte (b : Byte)
  | err
  /-- Outstanding when the block was reset: its outcome is discarded (R257). -/
  | discarded
  deriving DecidableEq, Repr

/-- One entry of the bus trace (R96, R171). -/
structure BusRecord where
  master : Master
  dev : DevAddr
  txn : Txn
  outcome : BusOutcome
  deriving DecidableEq, Repr

/-- When the reset input is asserted, relative to the block's bus port (R257). -/
inductive ResetTiming where
  /-- No transaction is outstanding. -/
  | betweenTransactions
  /-- The running command's next transaction is outstanding; `landed` says whether it had reached the target
  (93 U18). -/
  | duringTransaction (landed : Bool)
  deriving DecidableEq, Repr

/-- Which agent moves at one step (R8). -/
inductive Event where
  /-- The block's sequencer. -/
  | blockMove
  /-- Another bus master makes a transaction (R218). -/
  | otherMaster (dev : DevAddr) (txn : Txn)
  /-- The host asserts the reset input (R172, R240, R257). -/
  | reset (timing : ResetTiming)
  deriving DecidableEq, Repr

/-- The targets' registers that hold another known byte than at power-on: (address, byte) pairs, addresses
strictly rising. -/
abbrev Memory := List Host.Cell

/-- The state. -/
@[ext]
structure State where
  /-- The parameters of R7 and the targets' register space. No step changes them (R172). -/
  cfg : Config
  /-- blk.dev_addr (R21). -/
  devAddr : DevAddr
  /-- blk.phase (R22). -/
  phase : Phase
  /-- blk.busy (R23). -/
  busy : Bool
  /-- blk.cmd, the word being executed (R23). -/
  cmd : CmdWord
  /-- blk.seq, the index of the next transaction of the command (R24). -/
  seq : BitVec 7
  /-- blk.rd[0..3], the bytes read so far (R23). -/
  rd : Window
  /-- The command port: the words the host presents, in order (R80, R172). -/
  cmdIn : List CmdWord
  /-- The response port: the words produced, oldest first (R90, R171). -/
  responses : List RspWord
  /-- The registers of the bus targets (R27). -/
  mem : Memory
  /-- The bus's answers to the coming transactions, whichever master makes them; past the end every answer
  is `plain` (R65, log 3). -/
  answers : List BusAnswer
  /-- The transactions so far with their outcomes, oldest first (R171). -/
  trace : List BusRecord
  /-- Who moves at the coming steps; past the end the block moves (log 2). -/
  agenda : List Event
  deriving DecidableEq, Repr

/-- A machine fault. There is none: every outcome the spec gives an error is a status in a response
(R200, R211, R214), which is a next state. Nothing raises it (log 19). -/
inductive Fault where
  deriving DecidableEq, Repr

/-- A refusal. -/
inductive Refusal where
  /-- Raised by exec for an instruction whose meaning is not written yet (safe). No arm raises it. -/
  | notModelled (mnemonic : String)
  deriving DecidableEq, Repr

/-- A window of four zero bytes. -/
def zeroWindow : Window := ⟨0, 0, 0, 0⟩

/-- The machine after power-on and block reset (R240, R241). The spec gives `phase`, `busy`, no
transaction outstanding, no response pending. DESIGN CHOICE 0 for `devAddr`, `cmd`, `seq`, `rd`
(log 7), and empty scripts for the environment (log 2, log 3). -/
def State.reset : State where
  cfg := Config.default
  devAddr := 0
  phase := .uninitialized
  busy := false
  cmd := 0
  seq := 0
  rd := zeroWindow
  cmdIn := []
  responses := []
  mem := []
  answers := []
  trace := []
  agenda := []

end Sys2Proof.Machine
end

