-- ==== Sys2Proof/Machine/Flags.lean ====
section
/-! DEFINITION. The block has no flags (R26); what a command reports is a status (R200, R91) in a response
word (R90). -/

namespace Sys2Proof.Machine

/-- The ten statuses (R200). -/
inductive Status where
  | ok
  | busWriteError
  | busReadError
  | invalidFrequency
  | invalidStepRange
  | invalidDutyCycle
  | partialWriteFailure
  | initializationFailed
  | illegalCommand
  | notPermitted
  deriving DecidableEq, Repr

/-- The status codes (R91). -/
def statusCode : Status → BitVec 4
  | .ok => 0x0
  | .busWriteError => 0x1
  | .busReadError => 0x2
  | .invalidFrequency => 0x3
  | .invalidStepRange => 0x4
  | .invalidDutyCycle => 0x5
  | .partialWriteFailure => 0x6
  | .initializationFailed => 0x7
  | .illegalCommand => 0x8
  | .notPermitted => 0x9

/-- The response word: `status[15:12]`, `result[11:0]` (R90). -/
def rspWord (st : Status) (result : BitVec 12) : RspWord := statusCode st ++ result

/-- The status field of a response word (R90). -/
def rspStatus (w : RspWord) : BitVec 4 := w.extractLsb' 12 4

/-- The result field of a response word (R90). -/
def rspResult (w : RspWord) : BitVec 12 := w.extractLsb' 0 12

end Sys2Proof.Machine
end

