-- ==== Sys2Proof/Machine/Ops.lean ====
section
/-! DEFINITION. The named operations over the state: the targets' registers (20_memory.md), one bus
transaction (R50 to R52), ending a command (R10, R212), accepting one (R160), resetting the block
(R240). -/

namespace Sys2Proof.Machine

/-! ### The targets' registers -/

/-- The address of a register: 256 registers in each of 128 devices (R27), or 256 in all (R65). -/
def cellKey (cfg : Config) (dev : DevAddr) (reg : RegNum) : Nat :=
  match cfg.space with
  | .perDevice => dev.toNat * 256 + reg.toNat
  | .shared => reg.toNat

/-- The number of addresses (R27). -/
def cellCount : Nat := 32768

/-- What an unlisted address is known to hold: the byte of TARGET_INIT, the same for every device, or
nothing (R7, R241; log 5). -/
def unlisted (cfg : Config) (a : Nat) : Option Byte :=
  cfg.targetInit.map fun bytes => bytes[a % 256]'(Nat.mod_lt a (by decide))

/-- The byte listed at an address. -/
def Memory.get : Memory → Nat → Option Byte
  | [], _ => none
  | (k, b) :: m, a => if a = k then some b else Memory.get m a

/-- List byte `b` at address `a`. -/
def Memory.set : Memory → Nat → Byte → Memory
  | [], a, b => [(a, b)]
  | (k, c) :: m, a, b =>
    if a < k then (a, b) :: (k, c) :: m
    else if a = k then (a, b) :: m
    else (k, c) :: Memory.set m a b

/-- List nothing at address `a`. -/
def Memory.erase (m : Memory) (a : Nat) : Memory := m.filter fun c => c.1 != a

/-- Make address `a` hold `b`, keeping the canonical form. -/
def Memory.store (cfg : Config) (m : Memory) (a : Nat) (b : Byte) : Memory :=
  if unlisted cfg a = some b then Memory.erase m a else Memory.set m a b

/-- Make the registers of the list hold its bytes, the first entry first. -/
def Memory.applyChanges (cfg : Config) : List TargetChange → Memory → Memory
  | [], m => m
  | c :: cs, m =>
    Memory.applyChanges cfg cs (Memory.store cfg m (cellKey cfg c.dev c.reg) c.value)

/-- What address `a` holds: the byte listed, else the power-on byte (R241). -/
def Memory.byteAt (cfg : Config) (m : Memory) (a : Nat) : Byte :=
  (Memory.get m a).getD ((unlisted cfg a).getD (Config.unknownByte a))

/-- Addresses strictly rising, from `lo` on, below `cellCount`. -/
def Memory.risingFrom : Nat → Memory → Bool
  | _, [] => true
  | lo, (k, _) :: m => decide (lo ≤ k) && decide (k < cellCount) && Memory.risingFrom (k + 1) m

/-- The canonical form: addresses strictly rising and inside the space, no entry the byte that the address
is known to hold unlisted. -/
def Memory.wf (cfg : Config) (m : Memory) : Bool :=
  Memory.risingFrom 0 m && m.all fun c => unlisted cfg c.1 != some c.2

/-- What a register of a device holds. -/
def targetByte (s : State) (dev : DevAddr) (reg : RegNum) : Byte :=
  Memory.byteAt s.cfg s.mem (cellKey s.cfg dev reg)

/-- Make a register of a device hold `b`. -/
def storeTarget (dev : DevAddr) (reg : RegNum) (b : Byte) (s : State) : State :=
  { s with mem := Memory.store s.cfg s.mem (cellKey s.cfg dev reg) b }

/-- Known contents of some registers only: registers n, n + 1, … of `dev` hold `bytes`. -/
def loadTarget (dev : DevAddr) : Nat → List Byte → State → State
  | _, [], s => s
  | n, b :: bytes, s => loadTarget dev (n + 1) bytes (storeTarget dev (BitVec.ofNat 8 n) b s)

/-! ### One bus transaction -/

/-- The byte the addressed register comes to hold, none if it keeps its own. A read whose residue is `new`
changes nothing: it writes no byte. -/
def Txn.landed : Txn → Residue → Option Byte
  | _, .old => none
  | .write _ v, .new => some v
  | .read _, .new => none
  | _, .byte b => some b

/-- What a transaction changes beside the register it addresses: a read whatever the answer says (R59,
D19), a write nothing (R206, R249). -/
def Txn.sideEffects : Txn → List TargetChange → List TargetChange
  | .write _ _, _ => []
  | .read _, also => also

/-- All that a transaction changes in the targets, in order. -/
def Txn.changes (dev : DevAddr) (t : Txn) (after : Residue) (also : List TargetChange) :
    List TargetChange :=
  (t.landed after).toList.map (⟨dev, t.reg, ·⟩) ++ t.sideEffects also

/-- The effect of a transaction on the targets. -/
def settle (dev : DevAddr) (t : Txn) (after : Residue) (also : List TargetChange) (s : State) : State :=
  { s with mem := Memory.applyChanges s.cfg (t.changes dev after also) s.mem }

/-- Append a transaction to the bus trace (R171). -/
def record (m : Master) (dev : DevAddr) (t : Txn) (o : BusOutcome) (s : State) : State :=
  { s with trace := s.trace ++ [⟨m, dev, t, o⟩] }

/-- The bus's answer to the next transaction (R65 past the end of the script). -/
def nextAnswer (s : State) : BusAnswer := s.answers.headD .plain

/-- The answer is taken. -/
def popAnswer (s : State) : State := { s with answers := s.answers.tail }

/-- The outcome `ok` of a transaction as the trace shows it. -/
def Txn.okOutcome : Txn → Byte → BusOutcome
  | .write _ _, _ => .ok
  | .read _, b => .okByte b

/-- A transaction is over: its answer is taken, the trace shows it, the targets hold what it leaves. -/
def complete (m : Master) (dev : DevAddr) (t : Txn) (o : BusOutcome) (after : Residue)
    (also : List TargetChange) (s : State) : State :=
  settle dev t after also (record m dev t o (popAnswer s))

/-- Byte `k` of the window replaced. -/
def Window.set (w : Window) (k : BitVec 2) (b : Byte) : Window :=
  match k.toNat with
  | 0 => { w with onLow := b }
  | 1 => { w with onHigh := b }
  | 2 => { w with offLow := b }
  | _ => { w with offHigh := b }

/-- The byte within its window of transaction `seq`, `blk.seq & 3` (R25). -/
def byteIndex (seq : BitVec 7) : BitVec 2 := seq.extractLsb' 0 2

/-- The channel of transaction `seq` of `reset_all_channels`, `blk.seq >> 2` (R25). -/
def seqChannel (seq : BitVec 7) : Nat := (seq >>> 2).toNat

/-- `blk.rd[k] <- byte` after a read (R134); a write leaves the buffer. -/
def latchRead (t : Txn) (b : Byte) (s : State) : State :=
  match t with
  | .write _ _ => s
  | .read _ => { s with rd := Window.set s.rd (byteIndex s.seq) b }

/-- `blk.seq <- blk.seq + 1` (R24). -/
def advance (s : State) : State := { s with seq := s.seq + 1 }

/-- End the command with a response: the word is produced and `blk.busy <- 0` (R24, R90). -/
def respond (st : Status) (result : BitVec 12) (s : State) : State :=
  { s with responses := s.responses ++ [rspWord st result], busy := false }

/-- `raise st` (R10, R212), the taking of an exception: the response carries the status and result 0; no
transaction is issued, retried or undone; phase and device address stay. There is no return from it
(R213): the block is idle. -/
def raise (st : Status) (s : State) : State := respond st 0 s

/-- The outcome `ok` of a transaction: trace, register, read buffer, then `blk.seq` (R24). -/
def answerOk (t : Txn) (rdata : Byte) (after : Residue) (also : List TargetChange) (s : State) : State :=
  advance (latchRead t rdata (complete .block s.devAddr t (t.okOutcome rdata) after also s))

/-- The outcome `err`: the command ends with its bus status, `blk.seq` is not advanced, the register is
left as the answer says (R24, R52, R212; 93 U1). -/
def answerErr (t : Txn) (after : Residue) (also : List TargetChange) (busError : Status) (s : State) :
    State :=
  raise busError (complete .block s.devAddr t .err after also s)

/-- `MemWrite` or `MemRead` (R10, R50 to R52): issue the transaction to blk.dev_addr and take its outcome.
Without an answer the block waits, unchanged (R53, 93 U14). -/
def transact (t : Txn) (busError : Status) (s : State) : State :=
  match nextAnswer s with
  | .plain => answerOk t (targetByte s s.devAddr t.reg) .new [] s
  | .ok rdata after also => answerOk t rdata after also s
  | .err after also => answerErr t after also busError s
  | .silent => s

/-! ### Conducting a command -/

/-- What a command does, operands put in: the status its operands raise, its sequence of transactions, and
the status of a failed one (R212). -/
structure Plan where
  operandError : Option Status
  txns : List Txn
  busError : Status
  deriving DecidableEq, Repr

/-- One step of a command past its phase gate (R212, R24): operands are validated before any transaction;
then transaction number blk.seq is made; when blk.seq has reached the sequence's length, `finish`. -/
def conduct (p : Plan) (finish : State → State) (s : State) : Host.Outcome State Fault Refusal :=
  match p.operandError with
  | some st => .next (raise st s)
  | none =>
    match p.txns[s.seq.toNat]? with
    | some t => .next (transact t p.busError s)
    | none => .next (finish s)

/-- The phase gate of `construct` (R160): refused outside Uninitialized. -/
def gateConstruct (k : State → Host.Outcome State Fault Refusal) (s : State) :
    Host.Outcome State Fault Refusal :=
  if s.phase = .uninitialized then k s else .next (raise .notPermitted s)

/-- The phase gate of every other command (R160): refused in Uninitialized. -/
def gateModule (k : State → Host.Outcome State Fault Refusal) (s : State) :
    Host.Outcome State Fault Refusal :=
  if s.phase = .uninitialized then .next (raise .notPermitted s) else k s

/-- The phase after an OK channel write: Configured becomes Active, the others stay (R217). -/
def Phase.afterChannelWrite : Phase → Phase
  | .configured => .active
  | .uninitialized => .uninitialized
  | .reset => .reset
  | .active => .active

/-- `blk.phase <- p`. -/
def setPhase (p : Phase) (s : State) : State := { s with phase := p }

/-- `blk.dev_addr <- dev` (R161). -/
def setDevAddr (dev : DevAddr) (s : State) : State := { s with devAddr := dev }

/-- Accept the word `w`, leaving `rest` on the port (R160, R24). -/
def accept (w : CmdWord) (rest : List CmdWord) (s : State) : State :=
  { s with busy := true, cmd := w, seq := 0, cmdIn := rest }

/-- The word of the command being executed. -/
def fetch (s : State) : CmdWord := s.cmd

/-- The block's registers after the reset input (R240): nothing else changes. The value 0 of the registers
the rule calls unspecified is a DESIGN CHOICE (log 7). -/
def resetBlock (s : State) : State :=
  { s with phase := .uninitialized, busy := false, devAddr := 0, cmd := 0, seq := 0, rd := zeroWindow }

/-- The step's own entry of the agenda is used up. -/
def popAgenda (s : State) : State := { s with agenda := s.agenda.tail }

end Sys2Proof.Machine
end

