-- ==== Sys2Proof/Machine/Operands.lean ====
section
/-! DEFINITION. The pure functions of the Register Protocol Layer and the duty conversions
(40_register_protocol_layer.md sections 1 and 2), and the operand checks (R203 to R205). -/

namespace Sys2Proof.Machine

/-- `compute_channel_base_address` (R120). -/
def channelBase (ch : Channel) : RegNum :=
  BitVec.ofNat 8 (Config.chBase0 + ch.val * Config.chStride)

/-- `value & 0xFF` (R122). -/
def stepLow (v : Step) : Byte := (v &&& 0xFF).setWidth 8

/-- `value >> 8` (R122). -/
def stepHigh (v : Step) : Byte := (v >>> 8).setWidth 8

/-- `encode_step_pair` (R122). Its domain is the steps, so D27's refusal outside it cannot arise. -/
def encodeStepPair (p : StepPair) : Window :=
  ⟨stepLow p.on, stepHigh p.on, stepLow p.off, stepHigh p.off⟩

/-- `((high & 0xF) << 8) | low` (R123). -/
def joinStep (low high : Byte) : Step :=
  ((high &&& 0xF).setWidth 12 <<< 8) ||| low.setWidth 12

/-- `decode_step_pair` (R123). -/
def decodeStepPair (w : Window) : StepPair :=
  ⟨joinStep w.onLow w.onHigh, joinStep w.offLow w.offHigh⟩

/-- The integer a tie between `q` and `q + 1` goes to, for `q ≥ 0` (R125). -/
def breakTie : TieRule → Nat → Nat
  | .halfAwayFromZero, q => q + 1
  | .halfTowardZero, q => q
  | .halfToEven, q => if q % 2 = 0 then q else q + 1
  | .halfToOdd, q => if q % 2 = 0 then q + 1 else q

/-- `round(num / den)` for a non-negative rational (R125). -/
def roundQuot (tie : TieRule) (num den : Nat) : Nat :=
  let q := num / den
  let r := num % den
  if 2 * r < den then q
  else if den < 2 * r then q + 1
  else breakTie tie q

/-- `prescale_of` (R126): `round(25_000_000 / 4096 / f) - 1`, to nearest (90 C1, log 11). -/
def prescaleOf (tie : TieRule) (f : Nat) : Nat :=
  roundQuot tie Config.oscHz (Config.nSteps * f) - 1

/-- `duty_to_steps` of the duty cycle `num / den` (R128). -/
def dutyToSteps (tie : TieRule) (num den : Nat) : StepPair :=
  ⟨0, BitVec.ofNat 12 (roundQuot tie (num * Config.dutyDen) den)⟩

/-- The numerator over 4095 of `steps_to_duty` (R129), its three cases. -/
def stepsToDuty (p : StepPair) : Nat :=
  if p.on = p.off then 0
  else if p.on.toNat < p.off.toNat then p.off.toNat - p.on.toNat
  else p.on.toNat - p.off.toNat

/-- The denominator of the Q16.16 operand (R86). -/
def q16One : Nat := 65536

/-- `InvalidFrequency` outside 40..1000 (R203). -/
def frequencyError (hz : Int) : Option Status :=
  if hz < (Config.freqMin : Int) ∨ (Config.freqMax : Int) < hz then some .invalidFrequency else none

/-- `0 ≤ v < 4096` (R204). -/
def stepInRange (v : Int) : Bool := decide (0 ≤ v) && decide (v < (Config.nSteps : Int))

/-- `InvalidStepRange` unless both steps are in range (R204). -/
def stepError (on off : Int) : Option Status :=
  if stepInRange on && stepInRange off then none else some .invalidStepRange

/-- `InvalidDutyCycle` unless `0.0 ≤ d ≤ 1.0` (R205). -/
def dutyError (duty : Int) : Option Status :=
  if duty < 0 ∨ (q16One : Int) < duty then some .invalidDutyCycle else none

end Sys2Proof.Machine
end

