-- ==== Sys2Proof/Machine/Sequences.lean ====
section
/-! DEFINITION. The transaction sequences (40_register_protocol_layer.md section 3) and, built from them, the
plan of each command (41_channel_controller.md). -/

namespace Sys2Proof.Machine

/-- `soft_reset()`: MODE1 normal, then MODE2 totem-pole (R131). -/
def softResetTxns (cfg : Config) : List Txn :=
  [.write Config.regMode1 cfg.mode1Normal, .write Config.regMode2 Config.mode2Totem]

/-- `apply_frequency(f)`: sleep, prescale, wake, totem-pole (R132). -/
def applyFrequencyTxns (cfg : Config) (f : Nat) : List Txn :=
  [ .write Config.regMode1 cfg.mode1Sleep,
    .write Config.regPrescale (BitVec.ofNat 8 (prescaleOf cfg.tie f)),
    .write Config.regMode1 cfg.mode1Wake,
    .write Config.regMode2 Config.mode2Totem ]

/-- `write_channel(ch, bytes)`: the window ascending (R133, R56). -/
def writeChannelTxns (ch : Channel) (w : Window) : List Txn :=
  [ .write (channelBase ch) w.onLow,
    .write (channelBase ch + 1) w.onHigh,
    .write (channelBase ch + 2) w.offLow,
    .write (channelBase ch + 3) w.offHigh ]

/-- `read_channel(ch)`: the window ascending (R134). -/
def readChannelTxns (ch : Channel) : List Txn :=
  [ .read (channelBase ch),
    .read (channelBase ch + 1),
    .read (channelBase ch + 2),
    .read (channelBase ch + 3) ]

/-- The steps of the duty operand (R165): `duty_to_steps(n / 65536)`. -/
def dutySteps (cfg : Config) (duty : Int) : StepPair := dutyToSteps cfg.tie duty.toNat q16One

/-- The window writes of `write_duty_cycle` (R165, D16). -/
def writeDutyTxns (cfg : Config) (ch : Channel) (duty : Int) : List Txn :=
  writeChannelTxns ch (encodeStepPair (dutySteps cfg duty))

/-- `write_duty_cycle(ch, 0.0)` for the channels in ascending order (R167). -/
def resetAllTxns (cfg : Config) : List Txn :=
  (List.finRange 16).flatMap fun ch => writeDutyTxns cfg ch 0

/-- The steps of the two operands of `write_steps`, in range when validated (R164). -/
def operandSteps (on off : Int) : StepPair := ⟨BitVec.ofInt 12 on, BitVec.ofInt 12 off⟩

/-- R161. -/
def constructPlan (cfg : Config) : Plan := ⟨none, softResetTxns cfg, .initializationFailed⟩

/-- R162. -/
def softResetPlan (cfg : Config) : Plan := ⟨none, softResetTxns cfg, .busWriteError⟩

/-- R163. -/
def setFrequencyPlan (cfg : Config) (hz : Int) : Plan :=
  ⟨frequencyError hz, applyFrequencyTxns cfg hz.toNat, .busWriteError⟩

/-- R164. -/
def writeStepsPlan (ch : Channel) (on off : Int) : Plan :=
  ⟨stepError on off, writeChannelTxns ch (encodeStepPair (operandSteps on off)), .partialWriteFailure⟩

/-- R165. -/
def writeDutyPlan (cfg : Config) (ch : Channel) (duty : Int) : Plan :=
  ⟨dutyError duty, writeDutyTxns cfg ch duty, .partialWriteFailure⟩

/-- R166. -/
def readDutyPlan (ch : Channel) : Plan := ⟨none, readChannelTxns ch, .busReadError⟩

/-- R167. -/
def resetAllPlan (cfg : Config) : Plan := ⟨none, resetAllTxns cfg, .partialWriteFailure⟩

/-- The plan of a command. -/
def planOf (cfg : Config) : Instr → Plan
  | .construct _ => constructPlan cfg
  | .softReset => softResetPlan cfg
  | .setFrequency hz => setFrequencyPlan cfg hz
  | .writeSteps ch on off => writeStepsPlan ch on off
  | .writeDutyCycle ch duty => writeDutyPlan cfg ch duty
  | .readDutyCycle ch => readDutyPlan ch
  | .resetAllChannels => resetAllPlan cfg

end Sys2Proof.Machine
end

