-- ==== Sys2Proof/Machine/Channels.lean ====
section
/-! DEFINITION. The channel commands: `write_steps`, `write_duty_cycle`, `read_duty_cycle`,
`reset_all_channels` (41_channel_controller.md R164 to R167). Each meaning is one step of the command,
which resumes at blk.seq (R5, R24; log 1). -/

namespace Sys2Proof.Machine

/-- The OK end of a channel write (R164, R165, R167): Configured becomes Active. -/
def finishChannelWrite (s : State) : State :=
  respond .ok 0 (setPhase s.phase.afterChannelWrite s)

/-- The result of `read_duty_cycle`: `|on - off|` of the bytes read (R166, R129). -/
def readResult (s : State) : BitVec 12 := BitVec.ofNat 12 (stepsToDuty (decodeStepPair s.rd))

/-- `write_steps ch, on, off` (R164). -/
def execWriteSteps (ch : Channel) (on off : Int) (s : State) : Host.Outcome State Fault Refusal :=
  gateModule (fun s => conduct (writeStepsPlan ch on off) finishChannelWrite s) s

/-- `write_duty_cycle ch, duty` (R165). -/
def execWriteDutyCycle (ch : Channel) (duty : Int) (s : State) : Host.Outcome State Fault Refusal :=
  gateModule (fun s => conduct (writeDutyPlan s.cfg ch duty) finishChannelWrite s) s

/-- `read_duty_cycle ch` (R166). -/
def execReadDutyCycle (ch : Channel) (s : State) : Host.Outcome State Fault Refusal :=
  gateModule
    (fun s => conduct (readDutyPlan ch) (fun s => respond .ok (readResult s) s) s) s

/-- `reset_all_channels` (R167). -/
def execResetAllChannels (s : State) : Host.Outcome State Fault Refusal :=
  gateModule (fun s => conduct (resetAllPlan s.cfg) finishChannelWrite s) s

end Sys2Proof.Machine
end

