-- ==== Sys2Proof/Machine/Lifecycle.lean ====
section
/-! DEFINITION. The commands that set up the module: `construct`, `soft_reset`, `set_frequency`
(41_channel_controller.md R161 to R163). Each meaning is one step of the command, which resumes at
blk.seq (R5, R24; log 1). -/

namespace Sys2Proof.Machine

/-- `construct dev` (R161). -/
def execConstruct (dev : DevAddr) (s : State) : Host.Outcome State Fault Refusal :=
  gateConstruct
    (fun s => conduct (constructPlan s.cfg) (fun s => respond .ok 0 (setPhase .reset s))
      (setDevAddr dev s)) s

/-- `soft_reset` (R162). -/
def execSoftReset (s : State) : Host.Outcome State Fault Refusal :=
  gateModule (fun s => conduct (softResetPlan s.cfg) (respond .ok 0) s) s

/-- `set_frequency hz` (R163). -/
def execSetFrequency (hz : Int) (s : State) : Host.Outcome State Fault Refusal :=
  gateModule
    (fun s => conduct (setFrequencyPlan s.cfg hz)
      (fun s => respond .ok 0 (setPhase .configured s)) s) s

end Sys2Proof.Machine
end

