-- ==== Sys2Proof/Machine/Dispatch.lean ====
section
/-! DEFINITION. The meaning of each command: one arm per constructor. -/

namespace Sys2Proof.Machine

def exec (i : Instr) (s : State) : Host.Outcome State Fault Refusal :=
  match i with
  | .construct dev => Sys2Proof.Machine.execConstruct dev s
  | .softReset => Sys2Proof.Machine.execSoftReset s
  | .setFrequency hz => Sys2Proof.Machine.execSetFrequency hz s
  | .writeSteps ch on off => Sys2Proof.Machine.execWriteSteps ch on off s
  | .writeDutyCycle ch duty => Sys2Proof.Machine.execWriteDutyCycle ch duty s
  | .readDutyCycle ch => Sys2Proof.Machine.execReadDutyCycle ch s
  | .resetAllChannels => Sys2Proof.Machine.execResetAllChannels s

end Sys2Proof.Machine
end

