-- ==== Sys2Proof/Machine/Block.lean ====
section
/-! DEFINITION. The block's own move (R23, R24, R160) and the moves of the environment (R8, R218, R257). -/

namespace Sys2Proof.Machine

/-- The phase gate of R160, as a test. -/
def gateOpen (i : Instr) (p : Phase) : Bool :=
  match i with
  | .construct _ => decide (p = .uninitialized)
  | .softReset => decide (p ≠ .uninitialized)
  | .setFrequency _ => decide (p ≠ .uninitialized)
  | .writeSteps _ _ _ => decide (p ≠ .uninitialized)
  | .writeDutyCycle _ _ => decide (p ≠ .uninitialized)
  | .readDutyCycle _ => decide (p ≠ .uninitialized)
  | .resetAllChannels => decide (p ≠ .uninitialized)

/-- The device address a command's transactions carry: `construct` has written its operand before its
first one (R161). -/
def deviceOf (i : Instr) (s : State) : DevAddr :=
  match i with
  | .construct dev => dev
  | .softReset => s.devAddr
  | .setFrequency _ => s.devAddr
  | .writeSteps _ _ _ => s.devAddr
  | .writeDutyCycle _ _ => s.devAddr
  | .readDutyCycle _ => s.devAddr
  | .resetAllChannels => s.devAddr

/-- The command has passed every check that precedes its transactions (R212). -/
def admitted (i : Instr) (s : State) : Bool :=
  gateOpen i s.phase && (planOf s.cfg i).operandError.isNone

/-- The transaction the command `i` makes next in `s`, if it makes one. -/
def nextTxnOf (i : Instr) (s : State) : Option Txn :=
  if admitted i s then (planOf s.cfg i).txns[s.seq.toNat]? else none

/-- The transaction that is or will be outstanding next, with its device (R51), if a command runs that
makes one. -/
def pendingTxn (s : State) : Option (DevAddr × Txn) :=
  if s.busy then
    match decode (fetch s) with
    | .ok i => (nextTxnOf i s).map fun t => (deviceOf i s, t)
    | .error _ => none
  else none

/-- The block's move. Idle: take the next word of the port, if there is one (R160). Busy: an illegal word
is answered (R89, R208), a legal one does its next step. -/
def blockStep (s : State) : Host.Outcome State Fault Refusal :=
  if s.busy then
    match decode (fetch s) with
    | .ok i => exec i s
    | .error _ => .next (raise .illegalCommand s)
  else
    match s.cmdIn with
    | [] => .next s
    | w :: rest => .next (accept w rest s)

/-- Another bus master's transaction (R218, R247): the bus answers it as it answers the block's, from the same
list, and no register of the block changes. Without an answer that master waits (log 17). -/
def otherMove (dev : DevAddr) (t : Txn) (s : State) : State :=
  match nextAnswer s with
  | .plain => complete .other dev t (t.okOutcome (targetByte s dev t.reg)) .new [] s
  | .ok rdata after also => complete .other dev t (t.okOutcome rdata) after also s
  | .err after also => complete .other dev t .err after also s
  | .silent => s

/-- Of the old and the new byte, which are all that R257 admits, the one an abandoned write leaves that had
reached the target: the old one if its answer keeps the register, else the new one (log 8). -/
def BusAnswer.landedResidue : BusAnswer → Residue
  | .ok _ .old _ => .old
  | .err .old _ => .old
  | .plain => .new
  | .ok _ .new _ => .new
  | .ok _ (.byte _) _ => .new
  | .err .new _ => .new
  | .err (.byte _) _ => .new
  | .silent => .new

/-- The transaction outstanding at reset: old or new byte for a write, nothing for a read; its outcome is
discarded (R257, 93 U18). -/
def abandonTxn (landed : Bool) (s : State) : State :=
  match pendingTxn s with
  | none => s
  | some (dev, t) =>
    complete .block dev t .discarded (if landed then (nextAnswer s).landedResidue else .old) [] s

/-- The reset input (R240, R257): a running command is abandoned without a response. -/
def resetInput (timing : ResetTiming) (s : State) : State :=
  match timing with
  | .betweenTransactions => resetBlock s
  | .duringTransaction landed => resetBlock (abandonTxn landed s)

/-- The move of the agent the agenda names (log 2). -/
def agentStep (e : Event) (s : State) : Host.Outcome State Fault Refusal :=
  match e with
  | .blockMove => blockStep s
  | .otherMaster dev t => .next (otherMove dev t s)
  | .reset timing => .next (resetInput timing s)

/-- Who moves next: past the end of the agenda, the block. -/
def nextEvent (s : State) : Event := s.agenda.headD .blockMove

/-- The reference target of R65 with initial contents `init`, nothing written yet: one space for all device
addresses, and whichever master makes a transaction, the answer is `plain`. -/
def referenceTarget (init : Vector Byte 256) (s : State) : State :=
  { s with
    cfg := { s.cfg with targetInit := some init, space := .shared }
    mem := []
    answers := [] }

/-- The answers of a target that fails the transactions of its log numbered in `fails`, whichever master made
them, and changes nothing then (R65). -/
def faultAnswers (fails : List Nat) : List BusAnswer :=
  (List.range (fails.foldl max 0 + 1)).map fun n => if n ∈ fails then .err .old [] else .plain

/-- The fault-injecting target of R65; its log begins here. -/
def faultTarget (init : Vector Byte 256) (fails : List Nat) (s : State) : State :=
  { referenceTarget init s with answers := faultAnswers fails }

/-- The state in which `w` is the command just accepted and the block moves next. -/
def placeWord (w : CmdWord) (s : State) : State :=
  { s with busy := true, cmd := w, seq := 0, agenda := [] }

end Sys2Proof.Machine
end

