-- ==== Sys2Proof/Machine/Step.lean ====
section
/-! DEFINITION. One step of the machine: one acceptance, one bus transaction, or one response of the block
(R5), or one move of its environment. -/

namespace Sys2Proof.Machine

/-- The agent that the agenda names moves; its entry is used up. -/
def step (s : State) : Host.Outcome State Fault Refusal :=
  agentStep (nextEvent s) (popAgenda s)

/-- `s` with the table word `w` as the command just accepted: blk.cmd is where `step` finds the command it
executes, blk.seq 0 its first transaction, and the block moves next (log 13). -/
def State.withFetchWord (s : State) (nbits w : Nat) : State := placeWord (tableWord nbits w) s

end Sys2Proof.Machine
end

