-- ==== Sys2Proof/Machine/Assembler.lean ====
section
/-! DEFINITION. The text form of commands (30_encoding.md R92): one command a line, operands separated by
commas, `;` starts a comment. What the rule leaves open about spacing is fixed in log 21. -/

namespace Sys2Proof.Machine

/-- The six camelCase names of R92 beside the mnemonics of R81. -/
def canonicalMnemonic (name : String) : String :=
  if name == "softReset" then "soft_reset"
  else if name == "setFrequency" then "set_frequency"
  else if name == "writeSteps" then "write_steps"
  else if name == "writeDutyCycle" then "write_duty_cycle"
  else if name == "readDutyCycle" then "read_duty_cycle"
  else if name == "resetAllChannels" then "reset_all_channels"
  else name

/-- A space or a tab. -/
def isBlank (c : Char) : Bool := c == ' ' || c == '\t'

/-- The text without blanks at either end. -/
def trimBlanks (t : List Char) : List Char :=
  ((t.dropWhile isBlank).reverse.dropWhile isBlank).reverse

/-- The pieces of the text between separators. -/
def splitAtChar (sep : Char) : List Char → List (List Char)
  | [] => [[]]
  | c :: t =>
    match splitAtChar sep t with
    | [] => [[c]]
    | piece :: more => if c == sep then [] :: piece :: more else (c :: piece) :: more

/-- The value of a digit in a base up to 16. -/
def digitValue (base : Nat) (c : Char) : Option Nat :=
  let v :=
    if '0' ≤ c ∧ c ≤ '9' then c.toNat - '0'.toNat
    else if 'a' ≤ c ∧ c ≤ 'f' then c.toNat - 'a'.toNat + 10
    else if 'A' ≤ c ∧ c ≤ 'F' then c.toNat - 'A'.toNat + 10
    else 16
  if v < base then some v else none

/-- The number the digits write, after the ones already read. -/
def readDigits (base : Nat) : Nat → List Char → Option Nat
  | acc, [] => some acc
  | acc, c :: t =>
    match digitValue base c with
    | none => none
    | some v => readDigits base (acc * base + v) t

/-- A number of at least one digit. -/
def readNumber (base : Nat) (t : List Char) : Option Nat :=
  if t.isEmpty then none else readDigits base 0 t

/-- An unsigned operand: decimal, or hexadecimal after `0x`. -/
def readUnsigned : List Char → Option Nat
  | '0' :: 'x' :: t => readNumber 16 t
  | t => readNumber 10 t

/-- A signed decimal integer. -/
def readSigned : List Char → Option Int
  | '-' :: t => (readNumber 10 t).map fun n => -(n : Int)
  | t => (readNumber 10 t).map fun n => (n : Int)

/-- The Q16.16 numerator of the unsigned decimal `whole.frac`; none unless it is a multiple of 1/65536. -/
def readDecimal (whole frac : List Char) : Option Nat :=
  match readNumber 10 (whole ++ frac), readNumber 10 whole with
  | some n, some _ =>
    if n * 65536 % 10 ^ frac.length = 0 then some (n * 65536 / 10 ^ frac.length) else none
  | _, _ => none

/-- An unsigned duty operand: `n/65536` or a decimal fraction. -/
def readDutyMagnitude (t : List Char) : Option Nat :=
  match splitAtChar '/' t with
  | [n, den] => if readNumber 10 den = some 65536 then readNumber 10 n else none
  | [d] =>
    match splitAtChar '.' d with
    | [whole] => readDecimal whole []
    | [whole, frac] => if frac.isEmpty then none else readDecimal whole frac
    | _ => none
  | _ => none

/-- A duty operand as its Q16.16 numerator. -/
def readDuty : List Char → Option Int
  | '-' :: t => (readDutyMagnitude t).map fun n => -(n : Int)
  | t => (readDutyMagnitude t).map fun n => (n : Int)

/-- A channel operand, 0 to 15. -/
def readChannel (t : List Char) : Option Channel :=
  match readUnsigned t with
  | some n => if h : n < 16 then some ⟨n, h⟩ else none
  | none => none

/-- A device address operand, 0 to 127. -/
def readDevice (t : List Char) : Option DevAddr :=
  match readUnsigned t with
  | some n => if n < 128 then some (BitVec.ofNat 7 n) else none
  | none => none

/-- The command of a mnemonic and its operand texts, before the check of the operands' ranges. -/
def readCommand (name : String) (operands : List (List Char)) : Option Instr :=
  let m := canonicalMnemonic name
  match operands with
  | [] =>
    if m == "soft_reset" then some .softReset
    else if m == "reset_all_channels" then some .resetAllChannels
    else none
  | [a] =>
    if m == "construct" then (readDevice a).map .construct
    else if m == "set_frequency" then (readSigned a).map .setFrequency
    else if m == "read_duty_cycle" then (readChannel a).map .readDutyCycle
    else none
  | [a, b] =>
    if m == "write_duty_cycle" then
      match readChannel a, readDuty b with
      | some ch, some d => some (.writeDutyCycle ch d)
      | _, _ => none
    else none
  | [a, b, c] =>
    if m == "write_steps" then
      match readChannel a, readSigned b, readSigned c with
      | some ch, some on, some off => some (.writeSteps ch on off)
      | _, _, _ => none
    else none
  | _ => none

/-- The commands of one line: none for a blank line or a comment, one otherwise; `none` if the line is not
of the form of R92 or an operand does not fit its field. -/
def assembleLine (line : String) : Option (List Instr) :=
  let t := trimBlanks (line.toList.takeWhile (· != ';'))
  if t.isEmpty then some []
  else
    let name := String.ofList (t.takeWhile fun c => !isBlank c)
    let rest := trimBlanks (t.dropWhile fun c => !isBlank c)
    let operands := if rest.isEmpty then [] else (splitAtChar ',' rest).map trimBlanks
    match readCommand name operands with
    | some i => if i.wellFormed then some [i] else none
    | none => none

/-- The command words of a program, in order (R92). -/
def assemble : List String → Option (List CmdWord)
  | [] => some []
  | line :: more =>
    match assembleLine line, assemble more with
    | some is, some ws => some (is.map encode ++ ws)
    | _, _ => none

end Sys2Proof.Machine
end

