-- ==== Sys2Proof/Safety.lean ====
section
/-! DEFINITION. The terms claims are stated in: what a run shows (41_channel_controller.md R171), the named
premises about the environment (D26, D28), the invariant of every step, and the successor states the
spec's rules describe, written out field by field. -/

namespace Sys2Proof.Machine

/-- The next state of an outcome, if it is one. -/
def nextState (o : Host.Outcome State Fault Refusal) : Option State :=
  match o with
  | .next s => some s
  | .fault _ => none
  | .refused _ => none

/-- `n` steps of the machine, stopping at the first fault or refusal. -/
def runSteps : Nat → State → Host.Outcome State Fault Refusal
  | 0, s => .next s
  | n + 1, s =>
    match step s with
    | .next t => runSteps n t
    | .fault r => .fault r
    | .refused r => .refused r

/-! ### What a run shows -/

/-- The run is over: no word is left and the block is idle (R171). The rule speaks of the response to the last
command; where the reset input abandoned that command no response comes (R257), and that the run is over
then too is the model's choice (DESIGN CHOICE, log 23). -/
def State.runOver (s : State) : Bool := s.cmdIn.isEmpty && !s.busy

/-- What is observable of a run: the bus transactions with their outcomes, the responses, the targets'
contents (R171). -/
structure Observation where
  trace : List BusRecord
  responses : List RspWord
  mem : Memory
  deriving DecidableEq, Repr

/-- The observation of a run that has come to `s`. -/
def observe (s : State) : Observation := ⟨s.trace, s.responses, s.mem⟩

/-- The target's sleep bit as its MODE1 holds it (R219, R246). -/
def asleep (s : State) (dev : DevAddr) : Bool :=
  (targetByte s dev Config.regMode1).getLsbD s.cfg.sleepBit.val

/-- Register `k` of a channel's window. -/
def windowReg (ch : Channel) (k : Nat) : RegNum := channelBase ch + BitVec.ofNat 8 k

/-- The contents of a channel's window. -/
def windowOf (s : State) (dev : DevAddr) (ch : Channel) : Window :=
  ⟨targetByte s dev (windowReg ch 0), targetByte s dev (windowReg ch 1),
    targetByte s dev (windowReg ch 2), targetByte s dev (windowReg ch 3)⟩

/-- The window after the first `k` of its four writes (R247). -/
def tornWindow (k : Nat) (old new : Window) : Window :=
  ⟨if 0 < k then new.onLow else old.onLow, if 1 < k then new.onHigh else old.onHigh,
    if 2 < k then new.offLow else old.offLow, if 3 < k then new.offHigh else old.offHigh⟩

/-! ### Premises about the environment -/

/-- Every coming transaction is answered (the fairness premise D28, R53). -/
def State.busAnswers (s : State) : Prop := ∀ a ∈ s.answers, a ≠ .silent

/-- The bus is a plain store that always answers `ok` (R65). -/
def State.plainBus (s : State) : Prop := ∀ a ∈ s.answers, a = .plain

/-- The answer is `ok`. -/
def BusAnswer.isOk : BusAnswer → Bool
  | .plain => true
  | .ok _ _ _ => true
  | .err _ _ => false
  | .silent => false

/-- No coming transaction fails or goes unanswered, whatever the target. -/
def State.okBus (s : State) : Prop := ∀ a ∈ s.answers, a.isOk = true

/-- What a read changes beside its own register when it is answered so (R59, D19). -/
def BusAnswer.also : BusAnswer → List TargetChange
  | .plain => []
  | .ok _ _ also => also
  | .err _ also => also
  | .silent => []

/-- The side effects that the next transaction, whoever makes it, has if it is a read. -/
def comingChanges (s : State) : List TargetChange :=
  match nextEvent s with
  | .blockMove => (nextAnswer s).also
  | .otherMaster _ _ => (nextAnswer s).also
  | .reset _ => []

/-- Neither another master nor the reset input moves (D26). -/
def State.undisturbed (s : State) : Prop := s.agenda = []

/-! ### The successor states the rules describe -/

/-- After transaction `W(reg, v)` with outcome ok on a plain store (R24, R65). -/
def afterWrite (reg : RegNum) (v : Byte) (s : State) : State :=
  { s with
    seq := s.seq + 1
    answers := s.answers.tail
    trace := s.trace ++ [⟨.block, s.devAddr, .write reg v, .ok⟩]
    mem := Memory.store s.cfg s.mem (cellKey s.cfg s.devAddr reg) v }

/-- After transaction number `k` of a window read, `R(reg) -> b`, on a plain store (R24, R65, R134). -/
def afterRead (reg : RegNum) (k : BitVec 2) (b : Byte) (s : State) : State :=
  { s with
    seq := s.seq + 1
    answers := s.answers.tail
    trace := s.trace ++ [⟨.block, s.devAddr, .read reg, .okByte b⟩]
    rd := Window.set s.rd k b }

/-- After the response `w` (R24, R90). -/
def afterResponse (w : RspWord) (s : State) : State :=
  { s with responses := s.responses ++ [w], busy := false }

/-- The phase after a command ends with OK, the table of R217. The cells the table calls refused keep the
phase. -/
def phaseAfterOk : Instr → Phase → Phase
  | .construct _, .uninitialized => .reset
  | .construct _, p => p
  | .softReset, p => p
  | .setFrequency _, .uninitialized => .uninitialized
  | .setFrequency _, _ => .configured
  | .writeSteps _ _ _, .configured => .active
  | .writeSteps _ _ _, p => p
  | .writeDutyCycle _ _, .configured => .active
  | .writeDutyCycle _ _, p => p
  | .readDutyCycle _, p => p
  | .resetAllChannels, .configured => .active
  | .resetAllChannels, p => p

/-- The statuses a command can end with, the matrix of R210, past the legality of its word. -/
def statusesOf : Instr → List Status
  | .construct _ => [.ok, .initializationFailed, .notPermitted]
  | .softReset => [.ok, .busWriteError, .notPermitted]
  | .setFrequency _ => [.ok, .busWriteError, .invalidFrequency, .notPermitted]
  | .writeSteps _ _ _ => [.ok, .invalidStepRange, .partialWriteFailure, .notPermitted]
  | .writeDutyCycle _ _ => [.ok, .invalidDutyCycle, .partialWriteFailure, .notPermitted]
  | .readDutyCycle _ => [.ok, .busReadError, .notPermitted]
  | .resetAllChannels => [.ok, .partialWriteFailure, .notPermitted]

/-- The status of a failed transaction, by command (R201, R202, R206, R207). -/
def busStatusOf : Instr → Status
  | .construct _ => .initializationFailed
  | .softReset => .busWriteError
  | .setFrequency _ => .busWriteError
  | .writeSteps _ _ _ => .partialWriteFailure
  | .writeDutyCycle _ _ => .partialWriteFailure
  | .readDutyCycle _ => .busReadError
  | .resetAllChannels => .partialWriteFailure

/-- What a register that held `held` holds after a transaction that wrote `new` (93 U1). -/
def leftBy (r : Residue) (held new : Byte) : Byte :=
  match r with
  | .old => held
  | .new => new
  | .byte b => b

/-- The step a pair of bytes decodes to: the high byte's bits 7:4 are ignored (R123). -/
def stepValue (low high : Byte) : Nat := low.toNat + 256 * (high.toNat % 16)

/-- The length of a command's sequence (R24). -/
def sequenceLength : Instr → Nat
  | .construct _ => 2
  | .softReset => 2
  | .setFrequency _ => 4
  | .writeSteps _ _ _ => 4
  | .writeDutyCycle _ _ => 4
  | .readDutyCycle _ => 4
  | .resetAllChannels => 64

/-! ### The invariant -/

/-- The register numbers the block may address (R55): any of the 67 by a write, the channel windows by a
read. -/
def emittable : Txn → Bool
  | .write reg _ =>
    reg == Config.regMode1 || reg == Config.regMode2 || reg == Config.regPrescale ||
      (decide (6 ≤ reg.toNat) && decide (reg.toNat ≤ 0x45))
  | .read reg => decide (6 ≤ reg.toNat) && decide (reg.toNat ≤ 0x45)

/-- Every transaction of the block in the trace addresses one of its registers (R55). -/
def traceEmittable (s : State) : Bool :=
  s.trace.all fun r => r.master != .block || emittable r.txn

/-- The block's own transactions, oldest first. -/
def blockTrace (s : State) : List BusRecord := s.trace.filter fun r => r.master == .block

/-- The write of MODE1_SLEEP to a device, done. -/
def sleepRecord (cfg : Config) (dev : DevAddr) : BusRecord :=
  ⟨.block, dev, .write Config.regMode1 cfg.mode1Sleep, .ok⟩

/-- Each transaction that addresses PRESCALE comes right after the write of MODE1_SLEEP to the same device,
`prev` being the one before the list (R246). -/
def sleepsFirst (cfg : Config) : Option BusRecord → List BusRecord → Bool
  | _, [] => true
  | prev, r :: rs =>
    (r.txn.reg != Config.regPrescale || prev == some (sleepRecord cfg r.dev)) &&
      sleepsFirst cfg (some r) rs

/-- While `set_frequency` is about to write PRESCALE, the block's last transaction put the target to sleep. -/
def sleepPending (s : State) : Bool :=
  match s.busy, decode s.cmd, s.seq.toNat with
  | true, .ok (.setFrequency _), 1 => (blockTrace s).getLast? == some (sleepRecord s.cfg s.devAddr)
  | _, _, _ => true

/-- No transaction, or first the two of `construct` to one device, the second after the first's `ok`
(R243). -/
def startsWithConstruct (cfg : Config) : List BusRecord → Bool
  | [] => true
  | r :: rs =>
    r.txn == .write Config.regMode1 cfg.mode1Normal &&
      (r.outcome != .ok ||
        match rs with
        | [] => true
        | q :: _ => q.dev == r.dev && q.txn == .write Config.regMode2 Config.mode2Totem)

/-- How far a block with at most one transaction made has come: none made, so still Uninitialized and not
inside a `construct`; one done, so inside that `construct`. -/
def constructPlace (s : State) : Bool :=
  match blockTrace s with
  | [] =>
    decide (s.phase = .uninitialized) &&
      (!s.busy || s.seq == 0 ||
        match decode s.cmd with
        | .ok (.construct _) => false
        | _ => true)
  | [r] =>
    r.outcome != .ok ||
      (s.busy && s.seq == 1 && decide (s.phase = .uninitialized) &&
        match decode s.cmd with
        | .ok (.construct dev) => dev == r.dev
        | _ => false)
  | _ => true

/-- `construct` comes first (R243): the block's transactions begin with its two, and it is where that leaves
it. -/
structure State.ConstructFirst (s : State) : Prop where
  starts : startsWithConstruct s.cfg (blockTrace s) = true
  place : constructPlace s = true

/-- The sequencer is where its command can have brought it (R23, R24): at most the sequence's length, past
transaction 0 only if the checks before I/O passed, and with the device address the command uses. -/
def sequencerOk (s : State) : Bool :=
  if s.busy then
    match decode s.cmd with
    | .ok i =>
      decide (s.seq.toNat ≤ (planOf s.cfg i).txns.length) &&
        (s.seq == 0 || (admitted i s && deviceOf i s == s.devAddr))
    | .error _ => s.seq == 0
  else true

/-- The invariant of every step. -/
structure State.Inv (s : State) : Prop where
  memory : Memory.wf s.cfg s.mem = true
  sequencer : sequencerOk s = true
  emitted : traceEmittable s = true
  slept : sleepsFirst s.cfg none (blockTrace s) = true
  sleeping : sleepPending s = true

end Sys2Proof.Machine
end

