-- ==== Sys2Proof/Certificates/Slice0/Obligations.lean ====
section
/-! DEFINITION. The statements for the provers. Each docstring names the rule of spec/ it formalises. -/

open Sys2Proof Sys2Proof.Machine

/-! ### Encodings (30_encoding.md) -/

/-- Decoding the word of a well-formed command gives the command back (R80 to R88). -/
def Obligations.DecodeOfEncodeIsTheCommand : Prop :=
  ∀ i : Instr, i.wellFormed = true → decode (encode i) = .ok i

/-- Every legal word is the word of the command it decodes to, and that command is well-formed. -/
def Obligations.EncodeOfDecodeIsTheWord : Prop :=
  ∀ (w : CmdWord) (i : Instr), decode w = .ok i → encode i = w ∧ i.wellFormed = true

/-- R89: a word is legal exactly when it matches a row of the table; the rows are disjoint; it is
illegal exactly when its operation is reserved or a must-be-zero field is not zero; an illegal word is
answered `IllegalCommand` (0x8000) and nothing else happens. -/
def Obligations.IllegalWordsAreRejected : Prop :=
  (∀ w : CmdWord, (∃ i, decode w = .ok i) ↔ ∃ r ∈ opcodeTable, r.holds w = true) ∧
  (∀ r ∈ opcodeTable, ∀ q ∈ opcodeTable, ∀ w : CmdWord,
    r.holds w = true → q.holds w = true → r = q) ∧
  (∀ w : CmdWord, (∃ e, decode w = .error e) ↔
    (7 ≤ (wordOp w).toNat ∨
      ((wordOp w).toNat ∈ [0, 1, 2, 6] ∧ wordCh w ≠ 0) ∨
      ((wordOp w).toNat = 0 ∧ wordArgHigh w ≠ 0) ∨
      ((wordOp w).toNat ∈ [1, 5, 6] ∧ wordArg w ≠ 0))) ∧
  (∀ (s : State) (e : IllegalWord), s.busy = true → nextEvent s = .blockMove →
    decode s.cmd = .error e →
    step s = .next (afterResponse 0x8000 { s with agenda := s.agenda.tail }))

/-- A few words written out in the spec (95_test_vectors.md V5) decode to the commands they stand for.
-/
def Obligations.SpecWordsDecode : Prop :=
  decode 0x0000000040 = .ok (.construct 0x40) ∧
  decode 0x1000000000 = .ok .softReset ∧
  decode 0x200000003C = .ok (.setFrequency 60) ∧
  decode 0x20FFFFFFFF = .ok (.setFrequency (-1)) ∧
  decode 0x3500000800 = .ok (.writeSteps 5 0 2048) ∧
  decode 0x300000FFFF = .ok (.writeSteps 0 0 (-1)) ∧
  decode 0x4500008000 = .ok (.writeDutyCycle 5 32768) ∧
  decode 0x5F00000000 = .ok (.readDutyCycle 15) ∧
  decode 0x6000000000 = .ok .resetAllChannels ∧
  decode 0x0100000040 = .error .channelNotZero ∧
  decode 0x0000000080 = .error .argumentNotZero ∧
  decode 0x7000000000 = .error .reservedOperation

/-- R82 to R88: the fields of each command's word, at every value they can hold. -/
def Obligations.CommandWordFields : Prop :=
  (∀ dev : DevAddr, decode (0x0#4 ++ 0x0#4 ++ 0#25 ++ dev : CmdWord) = .ok (.construct dev)) ∧
  decode (0x1#4 ++ 0x0#4 ++ 0#32 : CmdWord) = .ok .softReset ∧
  (∀ hz : BitVec 32, decode (0x2#4 ++ 0x0#4 ++ hz : CmdWord) = .ok (.setFrequency hz.toInt)) ∧
  (∀ (ch : BitVec 4) (on off : BitVec 16),
    decode (0x3#4 ++ ch ++ on ++ off : CmdWord) =
      .ok (.writeSteps ⟨ch.toNat, ch.isLt⟩ on.toInt off.toInt)) ∧
  (∀ (ch : BitVec 4) (d : BitVec 32),
    decode (0x4#4 ++ ch ++ d : CmdWord) = .ok (.writeDutyCycle ⟨ch.toNat, ch.isLt⟩ d.toInt)) ∧
  (∀ ch : BitVec 4,
    decode (0x5#4 ++ ch ++ 0#32 : CmdWord) = .ok (.readDutyCycle ⟨ch.toNat, ch.isLt⟩)) ∧
  decode (0x6#4 ++ 0x0#4 ++ 0#32 : CmdWord) = .ok .resetAllChannels

/-- R90 and R91: the response word holds the status code in bits 15:12 and the result in bits 11:0; the
codes are those of the table. -/
def Obligations.ResponseWordFields : Prop :=
  (∀ (st : Status) (r : BitVec 12),
    rspStatus (rspWord st r) = statusCode st ∧ rspResult (rspWord st r) = r) ∧
  [Status.ok, .busWriteError, .busReadError, .invalidFrequency, .invalidStepRange,
    .invalidDutyCycle, .partialWriteFailure, .initializationFailed, .illegalCommand,
    .notPermitted].map (fun st => (statusCode st).toNat) = List.range 10

/-- Lines of text in the form of R92 assemble to the words 95_test_vectors.md gives for them (V5, P4).
The treatment of blanks is the model's choice (log 21). -/
def Obligations.TextAssemblesToSpecWords : Prop :=
  assemble
    [ "construct 0x40        ; comment", "softReset", "set_frequency -1", "",
      "write_steps 15, 4095, 4095", "writeDutyCycle 5, 0.5", "write_duty_cycle 0, -1/65536",
      "read_duty_cycle 15", "reset_all_channels" ] =
    some [0x0000000040, 0x1000000000, 0x20FFFFFFFF, 0x3F0FFF0FFF, 0x4500008000, 0x40FFFFFFFF,
      0x5F00000000, 0x6000000000] ∧
  assembleLine "write_steps 16, 0, 0" = none ∧
  assembleLine "construct 128" = none ∧
  assembleLine "write_duty_cycle 5, 0.1" = none

/-! ### A step, reset, the environment -/

/-- When the block moves and the word it executes decodes to `i`, the step is `exec i`, the agenda's
entry used up. The agenda and the size of a step are the model's choice (log 1, log 2). -/
def Obligations.StepRunsTheDecodedCommand : Prop :=
  ∀ (s : State) (i : Instr), s.busy = true → nextEvent s = .blockMove → decode s.cmd = .ok i →
    step s = exec i { s with agenda := s.agenda.tail }

/-- R160, R24: an idle block takes the next word of the port; a busy one takes none; with no word it
stays as it is. -/
def Obligations.CommandIsAcceptedOnlyWhileIdle : Prop :=
  (∀ (s : State) (w : CmdWord) (rest : List CmdWord), s.busy = false → nextEvent s = .blockMove →
    s.cmdIn = w :: rest →
    step s = .next { s with
      agenda := s.agenda.tail, cmdIn := rest, busy := true, cmd := w, seq := 0 }) ∧
  (∀ s : State, s.busy = false → nextEvent s = .blockMove → s.cmdIn = [] →
    step s = .next { s with agenda := s.agenda.tail }) ∧
  (∀ s t : State, s.busy = true → step s = .next t → t.cmdIn = s.cmdIn)

/-- R240: after reset the phase is Uninitialized and the block idle, no transaction and no response;
asserting reset between two transactions brings this about, issues no transaction, changes no target
register and nothing outside the block. Which value the unspecified registers take is left unsaid. -/
def Obligations.ResetReturnsToUninitialized : Prop :=
  (State.reset.phase = .uninitialized ∧ State.reset.busy = false ∧ State.reset.trace = [] ∧
    State.reset.responses = []) ∧
  ∀ s : State, nextEvent s = .reset .betweenTransactions →
    ∃ t, step s = .next t ∧ t.phase = .uninitialized ∧ t.busy = false ∧ t.trace = s.trace ∧
      t.responses = s.responses ∧ t.mem = s.mem ∧ t.answers = s.answers ∧ t.cmdIn = s.cmdIn ∧
      t.cfg = s.cfg ∧ t.agenda = s.agenda.tail

/-- R257: reset while a transaction is outstanding abandons the command without a response; the register
a write addresses holds its old or its new byte: the old one if the write had not reached the target,
else as its answer draws it (log 8); a read leaves its register; every other register keeps its byte. -/
def Obligations.ResetAbandonsTheRunningCommand : Prop :=
  ∀ (s : State) (landed : Bool), nextEvent s = .reset (.duringTransaction landed) →
    ∃ t, step s = .next t ∧ t.phase = .uninitialized ∧ t.busy = false ∧
      t.responses = s.responses ∧
      (∀ dev reg v, pendingTxn s = some (dev, .write reg v) →
        (targetByte t dev reg = targetByte s dev reg ∨ targetByte t dev reg = v) ∧
        targetByte t dev reg =
          if landed then leftBy (nextAnswer s).landedResidue (targetByte s dev reg) v
          else targetByte s dev reg) ∧
      (∀ dev reg, (∀ d r v, pendingTxn s = some (d, .write r v) →
          cellKey s.cfg d r ≠ cellKey s.cfg dev reg) →
        targetByte t dev reg = targetByte s dev reg)

/-- R218, R247: another master's transaction is answered from the same list as the block's, adds at most
its own record to the trace and changes no register of the block. On a plain store its write is taken
and its read sees what the register holds and changes nothing; on any other target (93 U3, 93 U8) its
write leaves what the answer draws; a register that it neither addresses nor, by a read, has as a side
effect keeps its byte (log 17). -/
def Obligations.OtherMastersLeaveTheBlockAlone : Prop :=
  ∀ (s : State) (dev : DevAddr) (x : Txn), nextEvent s = .otherMaster dev x →
    ∃ m recs, step s = .next { s with
        agenda := s.agenda.tail, mem := m, trace := s.trace ++ recs,
        answers := s.answers.drop recs.length } ∧
      recs.length ≤ 1 ∧ (recs = [] ↔ nextAnswer s = .silent) ∧
      (∀ q ∈ recs, q.master = .other ∧ q.dev = dev ∧ q.txn = x) ∧
      (∀ reg v, x = .write reg v → nextAnswer s = .plain →
        targetByte { s with mem := m } dev reg = v) ∧
      (∀ reg, x = .read reg → nextAnswer s = .plain →
        m = s.mem ∧ recs = [⟨.other, dev, .read reg, .okByte (targetByte s dev reg)⟩]) ∧
      (∀ reg v b r also, x = .write reg v → nextAnswer s = .ok b r also →
        targetByte { s with mem := m } dev reg = leftBy r (targetByte s dev reg) v) ∧
      (∀ reg v r also, x = .write reg v → nextAnswer s = .err r also →
        targetByte { s with mem := m } dev reg = leftBy r (targetByte s dev reg) v) ∧
      ∀ dev' reg', cellKey s.cfg dev x.reg ≠ cellKey s.cfg dev' reg' →
        (∀ c ∈ x.sideEffects (nextAnswer s).also,
          cellKey s.cfg c.dev c.reg ≠ cellKey s.cfg dev' reg') →
        targetByte { s with mem := m } dev' reg' = targetByte s dev' reg'

/-- No step of the machine stops. It is the model's reading (log 19, DEDUCED from R200 and R213: every
outcome is a status in a response) and, for a bus that never answers, the model's form of what 93 U14
calls stuck: a step that leaves the state as it is (log 12). -/
def Obligations.EveryStepHasANextState : Prop :=
  ∀ s : State, ∃ t, step s = .next t

/-! ### Pure functions (40_register_protocol_layer.md) -/

/-- R120: the base is `6 + 4 * channel`, from 6 to 66, and the window its four numbers from there on. -/
def Obligations.ChannelBaseAddress : Prop :=
  ∀ ch : Channel, (channelBase ch).toNat = 6 + ch.val * 4 ∧
    6 ≤ (channelBase ch).toNat ∧ (channelBase ch).toNat ≤ 66 ∧
    ∀ k : Fin 4, (windowReg ch k.val).toNat = (channelBase ch).toNat + k.val

/-- R121, which the spec derives from R120: the windows are disjoint, cover exactly 0x06..0x45, and hold
none of MODE1, MODE2, PRESCALE. -/
def Obligations.ChannelWindowsPartition : Prop :=
  (∀ (m n : Channel) (j k : Fin 4), windowReg m j.val = windowReg n k.val → m = n ∧ j = k) ∧
  (∀ reg : RegNum, (6 ≤ reg.toNat ∧ reg.toNat ≤ 69) ↔
    ∃ (ch : Channel) (k : Fin 4), windowReg ch k.val = reg) ∧
  (∀ (ch : Channel) (k : Fin 4), windowReg ch k.val ≠ 0x00 ∧ windowReg ch k.val ≠ 0x01 ∧
    windowReg ch k.val ≠ 0xFE)

/-- R122, R123: a step's low byte is `value & 0xFF`, its high byte `value >> 8` with bits 7:4 clear, in
the order on, off; four bytes of any value decode to `((high & 0xF) << 8) | low`, on and off. -/
def Obligations.StepPairBytes : Prop :=
  (∀ p : StepPair,
    (encodeStepPair p).onLow.toNat = p.on.toNat % 256 ∧
    (encodeStepPair p).onHigh.toNat = p.on.toNat / 256 ∧
    (encodeStepPair p).offLow.toNat = p.off.toNat % 256 ∧
    (encodeStepPair p).offHigh.toNat = p.off.toNat / 256 ∧
    (encodeStepPair p).onHigh.toNat < 16 ∧ (encodeStepPair p).offHigh.toNat < 16) ∧
  (∀ w : Window,
    (decodeStepPair w).on.toNat = w.onLow.toNat + 256 * (w.onHigh.toNat % 16) ∧
    (decodeStepPair w).off.toNat = w.offLow.toNat + 256 * (w.offHigh.toNat % 16))

/-- R124, its second sentence derived by the spec: decoding inverts encoding on every pair; encoding
inverts decoding exactly on bytes whose high nibbles are clear, and otherwise the result differs from
the bytes in those nibbles only. -/
def Obligations.StepPairRoundTrip : Prop :=
  (∀ p : StepPair, decodeStepPair (encodeStepPair p) = p) ∧
  (∀ w : Window, encodeStepPair (decodeStepPair w) = w ↔
    w.onHigh &&& 0xF0 = 0 ∧ w.offHigh &&& 0xF0 = 0) ∧
  (∀ w : Window, encodeStepPair (decodeStepPair w) =
    ⟨w.onLow, w.onHigh &&& 0x0F, w.offLow, w.offHigh &&& 0x0F⟩)

/-- R125: `round` gives the nearest integer under every tie rule, and `floor(q + 1/2)` under the
default, which the spec took from general knowledge (log 10). -/
def Obligations.RoundIsNearest : Prop :=
  (∀ (tie : TieRule) (num den : Nat), 0 < den →
    2 * (roundQuot tie num den * den) ≤ 2 * num + den ∧
    2 * num ≤ 2 * (roundQuot tie num den * den) + den) ∧
  (∀ num den : Nat, 0 < den →
    roundQuot Config.default.tie num den = (2 * num + den) / (2 * den))

/-- R126: the prescale of an accepted frequency is one below the integer nearest to `25_000_000 / 4096 /
f`; the values the rule lists. -/
def Obligations.PrescaleFormula : Prop :=
  (∀ (tie : TieRule) (f : Nat), 40 ≤ f → f ≤ 1000 →
    2 * |((prescaleOf tie f : Int) + 1) * (4096 * f) - 25000000| ≤ 4096 * f) ∧
  ∀ tie : TieRule, prescaleOf tie 60 = 101 ∧ prescaleOf tie 40 = 152 ∧ prescaleOf tie 50 = 121 ∧
    prescaleOf tie 100 = 60 ∧ prescaleOf tie 200 = 30 ∧ prescaleOf tie 1000 = 5

/-- What the spec itself derives from R126: the integer form, and the properties of R127: the prescale
is in 5..152, does not increase with the frequency, never meets a tie and so does not depend on ROUND,
and may be rounded before or after the subtraction. -/
def Obligations.PrescaleProperties : Prop :=
  (∀ (tie : TieRule) (f : Nat), 40 ≤ f → f ≤ 1000 →
    prescaleOf tie f = (50000000 + 4096 * f) / (8192 * f) - 1) ∧
  (∀ (tie : TieRule) (f : Nat), 40 ≤ f → f ≤ 1000 →
    5 ≤ prescaleOf tie f ∧ prescaleOf tie f ≤ 152) ∧
  (∀ (tie : TieRule) (f g : Nat), 40 ≤ f → f ≤ g → g ≤ 1000 →
    prescaleOf tie g ≤ prescaleOf tie f) ∧
  (∀ f : Nat, 40 ≤ f → f ≤ 1000 → 2 * (25000000 % (4096 * f)) ≠ 4096 * f) ∧
  (∀ (tie tie' : TieRule) (f : Nat), 40 ≤ f → f ≤ 1000 → prescaleOf tie f = prescaleOf tie' f) ∧
  (∀ (tie : TieRule) (f : Nat), 40 ≤ f → f ≤ 1000 →
    prescaleOf tie f = roundQuot tie (25000000 - 4096 * f) (4096 * f))

/-- R128: `duty_to_steps(num / den)` is onStep 0 and offStep `round(d * 4095)`, in 0..4095. -/
def Obligations.DutyToStepsConversion : Prop :=
  ∀ (tie : TieRule) (num den : Nat), 0 < den → num ≤ den →
    (dutyToSteps tie num den).on = 0 ∧
    (dutyToSteps tie num den).off.toNat = roundQuot tie (num * 4095) den ∧
    (dutyToSteps tie num den).off.toNat ≤ 4095

/-- R136, which the spec derives from R86, R125, R128: the integer form of the conversion for the Q16.16
operand under the default ROUND (log 10); the one operand whose step depends on the tie rule is 32768;
every step is produced. -/
def Obligations.DutyOperandIntegerForm : Prop :=
  (∀ n : Nat, n ≤ 65536 →
    (dutyToSteps Config.default.tie n 65536).off.toNat = (n * 4095 + 32768) >>> 16) ∧
  (∀ n : Nat, n ≤ 65536 → 2 * (n * 4095 % 65536) = 65536 → n = 32768) ∧
  (∀ v : Step, ∃ n : Nat, n ≤ 65536 ∧ (dutyToSteps Config.default.tie n 65536).off = v)

/-- R129: the numerator over 4095, in its three cases; in 0..4095; the same for a pair and its wrapped
counterpart. -/
def Obligations.StepsToDutyIsTheGap : Prop :=
  ∀ p : StepPair,
    (p.on = p.off → stepsToDuty p = 0) ∧
    (p.on.toNat < p.off.toNat → stepsToDuty p + p.on.toNat = p.off.toNat) ∧
    (p.off.toNat < p.on.toNat → stepsToDuty p + p.off.toNat = p.on.toNat) ∧
    stepsToDuty p ≤ 4095 ∧ stepsToDuty ⟨p.off, p.on⟩ = stepsToDuty p

/-- R130, which the spec derives from R128 and R129: converting a duty cycle to steps and back moves it
by at most half of 1/4095. -/
def Obligations.DutyConversionRoundTrip : Prop :=
  ∀ (tie : TieRule) (num den : Nat), 0 < den → num ≤ den →
    2 * |((stepsToDuty (dutyToSteps tie num den) * den : Nat) : Int) - (num * 4095 : Nat)| ≤ den

/-! ### The commands (41_channel_controller.md): what each step of a command does (log 1, log 3) -/

/-- R161, R131: `construct` in phase Uninitialized on a plain store. -/
def Obligations.ConstructExecutes : Prop :=
  ∀ (dev : DevAddr) (s : State), s.phase = .uninitialized →
    (s.seq = 0 → nextAnswer s = .plain → exec (.construct dev) s =
      .next (afterWrite 0x00 s.cfg.mode1Normal { s with devAddr := dev })) ∧
    (s.seq = 1 → nextAnswer s = .plain → exec (.construct dev) s =
      .next (afterWrite 0x01 0x04 { s with devAddr := dev })) ∧
    (s.seq = 2 → exec (.construct dev) s =
      .next (afterResponse 0x0000 { s with devAddr := dev, phase := .reset }))

/-- R162, R131: `soft_reset` on a plain store. -/
def Obligations.SoftResetExecutes : Prop :=
  ∀ s : State, s.phase ≠ .uninitialized →
    (s.seq = 0 → nextAnswer s = .plain → exec .softReset s =
      .next (afterWrite 0x00 s.cfg.mode1Normal s)) ∧
    (s.seq = 1 → nextAnswer s = .plain → exec .softReset s = .next (afterWrite 0x01 0x04 s)) ∧
    (s.seq = 2 → exec .softReset s = .next (afterResponse 0x0000 s))

/-- R163, R132: `set_frequency` with an accepted frequency on a plain store. -/
def Obligations.SetFrequencyExecutes : Prop :=
  ∀ (f : Nat) (s : State), s.phase ≠ .uninitialized → 40 ≤ f → f ≤ 1000 →
    (s.seq = 0 → nextAnswer s = .plain → exec (.setFrequency f) s =
      .next (afterWrite 0x00 s.cfg.mode1Sleep s)) ∧
    (s.seq = 1 → nextAnswer s = .plain → exec (.setFrequency f) s =
      .next (afterWrite 0xFE (BitVec.ofNat 8 ((50000000 + 4096 * f) / (8192 * f) - 1)) s)) ∧
    (s.seq = 2 → nextAnswer s = .plain → exec (.setFrequency f) s =
      .next (afterWrite 0x00 s.cfg.mode1Wake s)) ∧
    (s.seq = 3 → nextAnswer s = .plain → exec (.setFrequency f) s =
      .next (afterWrite 0x01 0x04 s)) ∧
    (s.seq = 4 → exec (.setFrequency f) s =
      .next (afterResponse 0x0000 { s with phase := .configured }))

/-- R164, R133, R97: `write_steps` with valid steps on a plain store. -/
def Obligations.WriteStepsExecutes : Prop :=
  ∀ (ch : Channel) (on off : Nat) (s : State), s.phase ≠ .uninitialized → on < 4096 → off < 4096 →
    (s.seq = 0 → nextAnswer s = .plain → exec (.writeSteps ch on off) s =
      .next (afterWrite (BitVec.ofNat 8 (6 + 4 * ch.val)) (BitVec.ofNat 8 (on % 256)) s)) ∧
    (s.seq = 1 → nextAnswer s = .plain → exec (.writeSteps ch on off) s =
      .next (afterWrite (BitVec.ofNat 8 (7 + 4 * ch.val)) (BitVec.ofNat 8 (on / 256)) s)) ∧
    (s.seq = 2 → nextAnswer s = .plain → exec (.writeSteps ch on off) s =
      .next (afterWrite (BitVec.ofNat 8 (8 + 4 * ch.val)) (BitVec.ofNat 8 (off % 256)) s)) ∧
    (s.seq = 3 → nextAnswer s = .plain → exec (.writeSteps ch on off) s =
      .next (afterWrite (BitVec.ofNat 8 (9 + 4 * ch.val)) (BitVec.ofNat 8 (off / 256)) s)) ∧
    (s.seq = 4 → exec (.writeSteps ch on off) s =
      .next (afterResponse 0x0000
        { s with phase := if s.phase = .configured then .active else s.phase }))

/-- R165: `write_duty_cycle` with a valid duty `n / 65536` on a plain store: onStep 0, offStep `round(d
* 4095)`. -/
def Obligations.WriteDutyCycleExecutes : Prop :=
  ∀ (ch : Channel) (n : Nat) (s : State), s.phase ≠ .uninitialized → n ≤ 65536 →
    (s.seq = 0 → nextAnswer s = .plain → exec (.writeDutyCycle ch n) s =
      .next (afterWrite (BitVec.ofNat 8 (6 + 4 * ch.val)) 0x00 s)) ∧
    (s.seq = 1 → nextAnswer s = .plain → exec (.writeDutyCycle ch n) s =
      .next (afterWrite (BitVec.ofNat 8 (7 + 4 * ch.val)) 0x00 s)) ∧
    (s.seq = 2 → nextAnswer s = .plain → exec (.writeDutyCycle ch n) s =
      .next (afterWrite (BitVec.ofNat 8 (8 + 4 * ch.val))
        (BitVec.ofNat 8 (roundQuot s.cfg.tie (n * 4095) 65536 % 256)) s)) ∧
    (s.seq = 3 → nextAnswer s = .plain → exec (.writeDutyCycle ch n) s =
      .next (afterWrite (BitVec.ofNat 8 (9 + 4 * ch.val))
        (BitVec.ofNat 8 (roundQuot s.cfg.tie (n * 4095) 65536 / 256)) s)) ∧
    (s.seq = 4 → exec (.writeDutyCycle ch n) s =
      .next (afterResponse 0x0000
        { s with phase := if s.phase = .configured then .active else s.phase }))

/-- R166, R134, R129: `read_duty_cycle` on a plain store: four ascending reads, then the gap of the two
steps as the result. -/
def Obligations.ReadDutyCycleExecutes : Prop :=
  ∀ (ch : Channel) (s : State), s.phase ≠ .uninitialized →
    (∀ k : Fin 4, s.seq = BitVec.ofNat 7 k.val → nextAnswer s = .plain →
      exec (.readDutyCycle ch) s =
        .next (afterRead (BitVec.ofNat 8 (6 + 4 * ch.val + k.val)) (BitVec.ofNat 2 k.val)
          (targetByte s s.devAddr (BitVec.ofNat 8 (6 + 4 * ch.val + k.val))) s)) ∧
    (s.seq = 4 → exec (.readDutyCycle ch) s =
      .next (afterResponse (BitVec.ofNat 16
        ((stepValue s.rd.onLow s.rd.onHigh : Int) - (stepValue s.rd.offLow s.rd.offHigh : Int)).natAbs)
        s))

/-- R167, R25: `reset_all_channels` on a plain store: 64 writes of 0 to 0x06, 0x07, …, 0x45, transaction
`n` of them to byte `n & 3` of channel `n >> 2`. -/
def Obligations.ResetAllChannelsExecutes : Prop :=
  ∀ s : State, s.phase ≠ .uninitialized →
    (s.seq.toNat < 64 → nextAnswer s = .plain → exec .resetAllChannels s =
      .next (afterWrite (BitVec.ofNat 8 (6 + s.seq.toNat)) 0x00 s)) ∧
    (∀ ch : Channel, seqChannel s.seq = ch.val →
      BitVec.ofNat 8 (6 + s.seq.toNat) = windowReg ch (byteIndex s.seq).toNat) ∧
    (s.seq = 64 → exec .resetAllChannels s =
      .next (afterResponse 0x0000
        { s with phase := if s.phase = .configured then .active else s.phase }))

/-! ### Outcomes of a transaction -/

/-- R50, R51: on any target that answers `ok`, a command's transaction advances blk.seq by one, is
recorded, and leaves phase and read buffer (but for a read) alone. What the addressed register then
holds, and what a read changes beside it, is the answer's draw (log 3, log 16); every other register
keeps its byte. -/
def Obligations.AnsweredTransactionAdvances : Prop :=
  ∀ (i : Instr) (s : State) (x : Txn) (b : Byte) (r : Residue) (also : List TargetChange),
    admitted i s = true → nextTxnOf i s = some x → nextAnswer s = .ok b r also →
    ∃ t, exec i s = .next t ∧ t.seq = s.seq + 1 ∧ t.busy = s.busy ∧ t.phase = s.phase ∧
      t.responses = s.responses ∧ t.devAddr = deviceOf i s ∧ t.answers = s.answers.tail ∧
      t.trace = s.trace ++ [⟨.block, deviceOf i s, x, x.okOutcome b⟩] ∧
      (∀ reg, x = .read reg → t.rd = Window.set s.rd (byteIndex s.seq) b) ∧
      (∀ reg v, x = .write reg v → t.rd = s.rd ∧
        targetByte t (deviceOf i s) reg = leftBy r (targetByte s (deviceOf i s) reg) v) ∧
      (∀ dev reg, cellKey s.cfg (deviceOf i s) x.reg ≠ cellKey s.cfg dev reg →
        (∀ c ∈ x.sideEffects also, cellKey s.cfg c.dev c.reg ≠ cellKey s.cfg dev reg) →
        targetByte t dev reg = targetByte s dev reg)

/-- R52, R212, R201, R202, R206, R207: a failed transaction ends the command with its bus status and
result 0, without retry or rollback: blk.seq and phase stay, the register is left as the answer says
(log 6), and so is what a failed read changes beside it (log 16); every other register keeps its byte.
-/
def Obligations.FailedTransactionEndsTheCommand : Prop :=
  ∀ (i : Instr) (s : State) (x : Txn) (r : Residue) (also : List TargetChange),
    admitted i s = true → nextTxnOf i s = some x → nextAnswer s = .err r also →
    ∃ t, exec i s = .next t ∧ t.busy = false ∧ t.seq = s.seq ∧ t.phase = s.phase ∧ t.rd = s.rd ∧
      t.responses = s.responses ++ [rspWord (busStatusOf i) 0] ∧ t.answers = s.answers.tail ∧
      t.trace = s.trace ++ [⟨.block, deviceOf i s, x, .err⟩] ∧
      (∀ reg v, x = .write reg v →
        targetByte t (deviceOf i s) reg = leftBy r (targetByte s (deviceOf i s) reg) v) ∧
      (∀ dev reg, cellKey s.cfg (deviceOf i s) x.reg ≠ cellKey s.cfg dev reg →
        (∀ c ∈ x.sideEffects also, cellKey s.cfg c.dev c.reg ≠ cellKey s.cfg dev reg) →
        targetByte t dev reg = targetByte s dev reg)

/-- R53, 93 U14: while the bus does not answer, the command makes no progress: nothing changes but
blk.dev_addr, which `construct` has written before its first transaction (log 12). -/
def Obligations.SilentBusKeepsTheBlockWaiting : Prop :=
  ∀ (i : Instr) (s : State) (x : Txn),
    admitted i s = true → nextTxnOf i s = some x → nextAnswer s = .silent →
    exec i s = .next { s with devAddr := deviceOf i s }

/-! ### Checks before I/O (60_exceptions.md) -/

/-- R209: `construct` outside Uninitialized and every other command inside it end with `NotPermitted`
(0x9000), no I/O, no state change; nothing else ends so. -/
def Obligations.PhaseGateRefuses : Prop :=
  (∀ (dev : DevAddr) (s : State), s.phase ≠ .uninitialized →
    exec (.construct dev) s = .next (afterResponse 0x9000 s)) ∧
  (∀ (i : Instr) (s : State), (∀ dev, i ≠ .construct dev) → s.phase = .uninitialized →
    exec i s = .next (afterResponse 0x9000 s)) ∧
  (∀ (i : Instr) (s t : State), exec i s = .next t → t.responses = s.responses ++ [0x9000] →
    ((∃ dev, i = .construct dev) ∧ s.phase ≠ .uninitialized) ∨
    ((∀ dev, i ≠ .construct dev) ∧ s.phase = .uninitialized))

/-- R203: a frequency outside 40..1000 ends `set_frequency` with `InvalidFrequency` (0x3000) and nothing
else happens; nothing else ends so. -/
def Obligations.InvalidFrequencyIsRejected : Prop :=
  (∀ (hz : Int) (s : State), s.phase ≠ .uninitialized → (hz < 40 ∨ 1000 < hz) →
    exec (.setFrequency hz) s = .next (afterResponse 0x3000 s)) ∧
  (∀ (i : Instr) (s t : State), exec i s = .next t → t.responses = s.responses ++ [0x3000] →
    ∃ hz : Int, i = .setFrequency hz ∧ (hz < 40 ∨ 1000 < hz))

/-- R204: a step outside 0..4095 ends `write_steps` with `InvalidStepRange` (0x4000) and nothing else
happens; nothing else ends so. -/
def Obligations.InvalidStepRangeIsRejected : Prop :=
  (∀ (ch : Channel) (on off : Int) (s : State), s.phase ≠ .uninitialized →
    ¬((0 ≤ on ∧ on < 4096) ∧ (0 ≤ off ∧ off < 4096)) →
    exec (.writeSteps ch on off) s = .next (afterResponse 0x4000 s)) ∧
  (∀ (i : Instr) (s t : State), exec i s = .next t → t.responses = s.responses ++ [0x4000] →
    ∃ (ch : Channel) (on off : Int), i = .writeSteps ch on off ∧
      ¬((0 ≤ on ∧ on < 4096) ∧ (0 ≤ off ∧ off < 4096)))

/-- R205: a duty cycle below 0 or above 1 ends `write_duty_cycle` with `InvalidDutyCycle` (0x5000) and
nothing else happens; nothing else ends so. -/
def Obligations.InvalidDutyCycleIsRejected : Prop :=
  (∀ (ch : Channel) (n : Int) (s : State), s.phase ≠ .uninitialized → (n < 0 ∨ 65536 < n) →
    exec (.writeDutyCycle ch n) s = .next (afterResponse 0x5000 s)) ∧
  (∀ (i : Instr) (s t : State), exec i s = .next t → t.responses = s.responses ++ [0x5000] →
    ∃ (ch : Channel) (n : Int), i = .writeDutyCycle ch n ∧ (n < 0 ∨ 65536 < n))

/-- R168: a command that ends with IllegalCommand, NotPermitted or an Invalid… status has done nothing
but answer: no transaction, the same device address and phase. It ends so before its first transaction
(blk.seq 0), wherever the sequencer is where its command can have brought it. -/
def Obligations.ValidationPrecedesEveryEffect : Prop :=
  ∀ (s t : State) (w : RspWord), blockStep s = .next t → t.responses = s.responses ++ [w] →
    (rspStatus w).toNat ∈ [3, 4, 5, 8, 9] →
    t = afterResponse w s ∧ (sequencerOk s = true → s.seq = 0)

/-- R210, which the spec derives from R160 to R167: the statuses a command can end with are those of its
row, whatever the state. -/
def Obligations.StatusMatrix : Prop :=
  ∀ (i : Instr) (s t : State), exec i s = .next t →
    t.responses = s.responses ∨
    ∃ st ∈ statusesOf i, ∃ r, t.responses = s.responses ++ [rspWord st r]

/-- R217: the phase changes only at the end of a command whose status is OK, and then as the table says;
the cells the table calls refused end with `NotPermitted`. -/
def Obligations.PhaseTransitions : Prop :=
  ∀ (i : Instr) (s t : State), exec i s = .next t →
    ((∃ r, t.responses = s.responses ++ [rspWord .ok r]) → t.phase = phaseAfterOk i s.phase) ∧
    ((∀ r, t.responses ≠ s.responses ++ [rspWord .ok r]) → t.phase = s.phase) ∧
    (gateOpen i s.phase = false → t.responses = s.responses ++ [rspWord .notPermitted 0])

/-! ### Frames -/

/-- What no command changes: the parameters, the command word and the port, the agenda; the device
address but for `construct`, the read buffer but for `read_duty_cycle`; the phase but for the five
commands that end in another (and then only by R217); blk.seq stays or goes up by one. -/
def Obligations.CommandsFrameTheBlock : Prop :=
  ∀ (i : Instr) (s t : State), exec i s = .next t →
    t.cfg = s.cfg ∧ t.cmd = s.cmd ∧ t.cmdIn = s.cmdIn ∧ t.agenda = s.agenda ∧
    ((∀ dev, i ≠ .construct dev) → t.devAddr = s.devAddr) ∧
    (∀ dev, i = .construct dev → t.devAddr = s.devAddr ∨ t.devAddr = dev) ∧
    ((∀ ch, i ≠ .readDutyCycle ch) → t.rd = s.rd) ∧
    (i = .softReset → t.phase = s.phase) ∧ (∀ ch, i = .readDutyCycle ch → t.phase = s.phase) ∧
    (t.seq = s.seq ∨ t.seq = s.seq + 1)

/-- The registers of the targets. On every target: a command changes at most the register its next
transaction addresses and, if that is a read, what the answer lists beside it (R59 and D19 leave that
unconstrained); with no transaction to make it changes none. A command other than `read_duty_cycle`
changes at most the addressed register; that its writes change no other one on any target is the model's
reading of R206, R247 and R249 (log 3, log 16). A read of a plain store changes none. Which registers
share an address is the parameter of log 4. -/
def Obligations.CommandsFrameTheTargets : Prop :=
  (∀ (i : Instr) (s t : State), exec i s = .next t →
    ∀ dev reg,
      (∀ x, nextTxnOf i s = some x →
        cellKey s.cfg (deviceOf i s) x.reg ≠ cellKey s.cfg dev reg ∧
        ∀ c ∈ x.sideEffects (nextAnswer s).also,
          cellKey s.cfg c.dev c.reg ≠ cellKey s.cfg dev reg) →
      targetByte t dev reg = targetByte s dev reg) ∧
  (∀ (i : Instr) (s t : State), (∀ ch, i ≠ .readDutyCycle ch) → exec i s = .next t →
    ∀ dev reg,
      (∀ x, nextTxnOf i s = some x →
        cellKey s.cfg (deviceOf i s) x.reg ≠ cellKey s.cfg dev reg) →
      targetByte t dev reg = targetByte s dev reg) ∧
  (∀ (ch : Channel) (s t : State), nextAnswer s = .plain → exec (.readDutyCycle ch) s = .next t →
    ∀ dev reg, targetByte t dev reg = targetByte s dev reg)

/-- No transaction of the block is hidden, elided or delayed (R60, R62). In every step, whoever moves, a
register keeps its byte unless a transaction that the trace shows addresses it or, being a read, has it
among the side effects its answer lists. That no target changes a register in any other way is the
model's reading of the environment (log 3, log 16, log 17). -/
def Obligations.RegistersChangeOnlyByTransactions : Prop :=
  ∀ (s t : State) (dev : DevAddr) (reg : RegNum), step s = .next t →
    (∀ recs, t.trace = s.trace ++ recs → ∀ x ∈ recs,
      cellKey s.cfg x.dev x.txn.reg ≠ cellKey s.cfg dev reg ∧
      ∀ c ∈ x.txn.sideEffects (comingChanges s),
        cellKey s.cfg c.dev c.reg ≠ cellKey s.cfg dev reg) →
    targetByte t dev reg = targetByte s dev reg

/-- R169, which the spec derives from R24 and R212: a step either leaves the responses and, unless it
accepts a word or resets the block, the busy bit, or it produces exactly one response and makes the busy
block idle. -/
def Obligations.OneResponseEndsACommand : Prop :=
  ∀ s t : State, step s = .next t →
    (t.responses = s.responses ∧ (s.busy = true → t.busy = false → ∃ tm, nextEvent s = .reset tm)) ∨
    (∃ w, t.responses = s.responses ++ [w] ∧ s.busy = true ∧ t.busy = false)

/-- R21, R172: no step changes the parameters; blk.dev_addr is written only by `construct`, from its
operand, in phase Uninitialized (and by the reset input, after which its value is the model's choice,
log 7). -/
def Obligations.ParametersAndDeviceAddressStay : Prop :=
  (∀ s t : State, step s = .next t → t.cfg = s.cfg) ∧
  (∀ s t : State, step s = .next t → t.devAddr ≠ s.devAddr →
    (∃ dev, s.busy = true ∧ decode s.cmd = .ok (.construct dev) ∧ s.phase = .uninitialized ∧
      t.devAddr = dev) ∨
    (∃ tm, nextEvent s = .reset tm))

/-- R55, which the spec derives from R120 and R131 to R134: whatever the state, every transaction a step
of the block puts on the bus addresses one of its 67 registers, a read one of the 64 channel registers.
-/
def Obligations.BlockAddressesOnlyItsRegisters : Prop :=
  ∀ s t : State, step s = .next t → ∀ x ∈ t.trace,
    x ∈ s.trace ∨ x.master = .other ∨ emittable x.txn = true

/-! ### Invariants and whole runs -/

/-- The reset state meets the invariant. -/
def Obligations.InvariantHoldsAtReset : Prop := State.reset.Inv

/-- Every step keeps the invariant: the targets' cells stay canonical, the sequencer stays within its
command's sequence and past the checks, every transaction of the block addresses a register it may, and
PRESCALE is only ever addressed right after MODE1_SLEEP was written to the same device. -/
def Obligations.EveryStepKeepsTheInvariant : Prop :=
  ∀ s t : State, s.Inv → step s = .next t → t.Inv

/-- R246, the part the block discharges: in every run from reset, whatever the host, the bus, the other
masters and the reset input do, each transaction of the block that addresses PRESCALE comes, among the
block's own transactions, directly after its write of MODE1_SLEEP to the same device, done with outcome
ok. It does not say that the target is asleep then: another master may have written MODE1 in between. -/
def Obligations.PrescaleFollowsTheBlocksOwnSleepWrite : Prop :=
  ∀ (n : Nat) (cfg : Config) (words : List CmdWord) (answers : List BusAnswer) (agenda : List Event)
    (t : State),
    runSteps n { State.reset with cfg := cfg, cmdIn := words, answers := answers, agenda := agenda } =
      .next t →
    sleepsFirst cfg none (blockTrace t) = true

/-- R243, which the spec derives from R160 and R161: the first transaction of the block is `W(0x00,
MODE1_NORMAL)` and, if that succeeded, the second is `W(0x01, 0x04)` to the same device. As an
invariant: it holds at reset and every step but the reset input keeps it, together with the place in
`construct` that it needs. As a consequence: it holds in every run from reset without a further reset.
-/
def Obligations.ConstructTransactsFirst : Prop :=
  (∀ (cfg : Config) (words : List CmdWord) (answers : List BusAnswer) (agenda : List Event),
    { State.reset with cfg := cfg, cmdIn := words, answers := answers,
                       agenda := agenda }.ConstructFirst) ∧
  (∀ s t : State, s.ConstructFirst → (∀ tm, nextEvent s ≠ .reset tm) → step s = .next t →
    t.ConstructFirst) ∧
  (∀ (n : Nat) (cfg : Config) (words : List CmdWord) (answers : List BusAnswer)
      (agenda : List Event) (t : State),
    (∀ e ∈ agenda, ∀ tm, e ≠ .reset tm) →
    runSteps n { State.reset with cfg := cfg, cmdIn := words, answers := answers,
                                  agenda := agenda } = .next t →
    blockTrace t = [] ∨
    ∃ dev o rest, blockTrace t = ⟨.block, dev, .write 0x00 cfg.mode1Normal, o⟩ :: rest ∧
      (o = .ok → rest = [] ∨ ∃ o' more, rest = ⟨.block, dev, .write 0x01 0x04, o'⟩ :: more))

/-- R22: the phases Reset, Configured and Active cannot be told apart by anything a run shows. As a
step: two states equal but for the phase, neither Uninitialized, step to two states equal but for the
phase, and either both are Uninitialized or neither is. As a consequence: runs of any length from two
such states show the same. -/
def Obligations.LaterPhasesAreIndistinguishable : Prop :=
  (∀ (s t : State) (q : Phase), s.phase ≠ .uninitialized → q ≠ .uninitialized →
    step s = .next t →
    ∃ q', step { s with phase := q } = .next { t with phase := q' } ∧
      (t.phase = .uninitialized ↔ q' = .uninitialized)) ∧
  (∀ (n : Nat) (s : State) (p q : Phase), p ≠ .uninitialized → q ≠ .uninitialized →
    ∃ t u, runSteps n { s with phase := p } = .next t ∧ runSteps n { s with phase := q } = .next u ∧
      observe t = observe u)

/-- R24, R169: if the target answers every transaction with `ok`, a command that passes the checks runs
from acceptance to its OK response in as many steps as its sequence has transactions and two more (log
1), makes exactly the transactions of its sequence, in order, and ends in the phase of R217. -/
def Obligations.AdmittedCommandRunsToCompletion : Prop :=
  ∀ (i : Instr) (s : State) (rest : List CmdWord), i.wellFormed = true → admitted i s = true →
    s.busy = false → s.undisturbed → s.okBus → s.cmdIn = encode i :: rest →
    ∃ t recs r, runSteps (sequenceLength i + 2) s = .next t ∧ t.busy = false ∧ t.cmdIn = rest ∧
      t.responses = s.responses ++ [rspWord .ok r] ∧ t.phase = phaseAfterOk i s.phase ∧
      t.devAddr = deviceOf i s ∧ t.trace = s.trace ++ recs ∧
      recs.map (·.txn) = (planOf s.cfg i).txns ∧ recs.length = sequenceLength i ∧
      ∀ x ∈ recs, x.master = .block ∧ x.dev = deviceOf i s ∧ x.outcome ≠ .err

/-- R169, R212: when the target, whatever it is, answers `k` transactions of an undisturbed command with
`ok` and fails the next, the command has made exactly the first `k + 1` transactions of its sequence and
ends with its bus status, phase unchanged. It takes `k + 2` steps (log 1). -/
def Obligations.FailedCommandIsAPrefixOfItsSequence : Prop :=
  ∀ (i : Instr) (s : State) (rest : List CmdWord) (k : Nat) (oks : List BusAnswer) (r : Residue)
      (also : List TargetChange) (more : List BusAnswer),
    i.wellFormed = true → admitted i s = true → s.busy = false → s.undisturbed →
    s.cmdIn = encode i :: rest → k < sequenceLength i →
    oks.length = k → (∀ a ∈ oks, a.isOk = true) → s.answers = oks ++ .err r also :: more →
    ∃ t recs, runSteps (k + 2) s = .next t ∧ t.busy = false ∧
      t.responses = s.responses ++ [rspWord (busStatusOf i) 0] ∧ t.phase = s.phase ∧
      t.seq.toNat = k ∧ t.answers = more ∧ t.trace = s.trace ++ recs ∧
      recs.map (·.txn) = (planOf s.cfg i).txns.take (k + 1)

/-- R53, R169: a running command ends, whatever it is and wherever it stands, if the bus answers every
transaction and nothing disturbs it: within 66 steps (log 1) the block is idle with one more response.
Where blk.seq is beyond the sequence, which no run reaches, the end is the model's choice (log 14). -/
def Obligations.EveryCommandEnds : Prop :=
  ∀ s : State, s.busy = true → s.undisturbed → s.busAnswers →
    ∃ n t w, n ≤ 66 ∧ runSteps n s = .next t ∧ t.busy = false ∧ t.responses = s.responses ++ [w]

/-- R247, which the spec derives from R51, R58 and R133: after the first `k` writes of `write_steps` on
a plain store, which is after `k + 1` steps (log 1), the window holds the first `k` new bytes and the
rest of the old ones, and no register at another address has changed (log 4). -/
def Obligations.RunningChannelWriteLeavesATornWindow : Prop :=
  ∀ (ch : Channel) (on off : Nat) (s : State) (rest : List CmdWord) (k : Nat),
    on < 4096 → off < 4096 → s.phase ≠ .uninitialized → s.busy = false → s.undisturbed →
    s.plainBus → s.cmdIn = encode (.writeSteps ch on off) :: rest → k ≤ 4 →
    ∃ t, runSteps (k + 1) s = .next t ∧
      windowOf t s.devAddr ch = tornWindow k (windowOf s s.devAddr ch)
        (encodeStepPair ⟨BitVec.ofNat 12 on, BitVec.ofNat 12 off⟩) ∧
      ∀ dev reg,
        (∀ j : Fin 4, cellKey s.cfg s.devAddr (windowReg ch j.val) ≠ cellKey s.cfg dev reg) →
        targetByte t dev reg = targetByte s dev reg

/-- SSR §8 (S3), R130: `write_duty_cycle` then `read_duty_cycle` of the same channel on a plain store
with no other master returns the duty cycle within half of 1/4095, whatever the tie rule, in 12 steps
(log 1). -/
def Obligations.DutyCycleReadsBack : Prop :=
  ∀ (ch : Channel) (n : Nat) (s : State) (rest : List CmdWord),
    n ≤ 65536 → s.phase ≠ .uninitialized → s.busy = false → s.undisturbed → s.plainBus →
    s.cmdIn = encode (.writeDutyCycle ch n) :: encode (.readDutyCycle ch) :: rest →
    ∃ (t : State) (num : Nat), runSteps 12 s = .next t ∧ num ≤ 4095 ∧
      t.responses = s.responses ++ [0x0000, rspWord .ok (BitVec.ofNat 12 num)] ∧
      2 * |((num * 65536 : Nat) : Int) - (n * 4095 : Nat)| ≤ 65536

/-- R167: after `reset_all_channels` on a plain store, which takes 66 steps (log 1), all 64 channel
registers hold 0 and every register at another address (log 4) what it held. -/
def Obligations.ResetAllChannelsClearsEveryWindow : Prop :=
  ∀ (s : State) (rest : List CmdWord), s.phase ≠ .uninitialized → s.busy = false → s.undisturbed →
    s.plainBus → s.cmdIn = encode .resetAllChannels :: rest →
    ∃ t, runSteps 66 s = .next t ∧ t.responses = s.responses ++ [0x0000] ∧
      (∀ reg : RegNum, 6 ≤ reg.toNat → reg.toNat ≤ 69 → targetByte t s.devAddr reg = 0) ∧
      (∀ dev reg, (∀ r : RegNum, 6 ≤ r.toNat → r.toNat ≤ 69 →
          cellKey s.cfg s.devAddr r ≠ cellKey s.cfg dev reg) →
        targetByte t dev reg = targetByte s dev reg)

/-- R249, which the spec derives from R132: what `set_frequency` leaves in MODE1, PRESCALE and MODE2
when its transaction `k` fails, by `k`; asleep after a failed prescale write, awake after a failed last
write (under the constraint of R7, log 9). What a failed write leaves is the answer's draw (log 6). The
response comes after `k + 2` steps (log 1). -/
def Obligations.FailedSetFrequencyLeavesAPartialMode : Prop :=
  ∀ (f : Nat) (s : State) (rest : List CmdWord) (k : Fin 4) (r : Residue)
    (also : List TargetChange) (more : List BusAnswer) (m1 pre m2 p : Byte),
    40 ≤ f → f ≤ 1000 → s.phase ≠ .uninitialized → s.busy = false → s.undisturbed →
    s.cfg.wf = true → s.cmdIn = encode (.setFrequency f) :: rest →
    s.answers = List.replicate k.val .plain ++ .err r also :: more →
    m1 = targetByte s s.devAddr 0x00 → pre = targetByte s s.devAddr 0xFE →
    m2 = targetByte s s.devAddr 0x01 →
    p = BitVec.ofNat 8 ((50000000 + 4096 * f) / (8192 * f) - 1) →
    ∃ t, runSteps (k.val + 2) s = .next t ∧ t.responses = s.responses ++ [0x1000] ∧
      targetByte t s.devAddr 0x00 =
        (match k with
          | 0 => leftBy r m1 s.cfg.mode1Sleep
          | 1 => s.cfg.mode1Sleep
          | 2 => leftBy r s.cfg.mode1Sleep s.cfg.mode1Wake
          | 3 => s.cfg.mode1Wake) ∧
      targetByte t s.devAddr 0xFE =
        (match k with
          | 0 => pre
          | 1 => leftBy r pre p
          | 2 => p
          | 3 => p) ∧
      targetByte t s.devAddr 0x01 =
        (match k with
          | 0 => m2
          | 1 => m2
          | 2 => m2
          | 3 => leftBy r m2 0x04) ∧
      (k = 1 → asleep t s.devAddr = true) ∧ (k = 3 → asleep t s.devAddr = false)

/-! ### The targets used for evidence (20_memory.md) -/

/-- R65, the two targets used for evidence. The reference target starts with its initial contents and
ignores the device address: a byte stored under one is read under every other, and no other register
changes. Whichever master makes a transaction, a step shows it so: a write is answered `ok` and taken, a
read is answered with the byte held and changes nothing. The fault-injecting target fails exactly the
transactions of its log numbered in its set, whichever master made them, and changes nothing then; in a
run of any length each numbered transaction in the trace has outcome err, but for one that the reset
input abandoned, whose outcome is discarded (R257), and no other one has (that one list answers every
master is log 3, that an abandoned transaction has a number is log 8). Where the targets have the
register space of R27 instead (log 4), a store under one device address changes none under another. The
stores are `storeTarget`, one `Memory.store` at the register's `cellKey`, which is what a transaction
makes of each register it changes (`settle`). -/
def Obligations.ReferenceTargetIgnoresTheDevice : Prop :=
  (∀ (init : Vector Byte 256) (s : State) (dev : DevAddr) (reg : RegNum),
    targetByte (referenceTarget init s) dev reg = init[reg.toNat]) ∧
  (∀ (s : State) (dev dev' : DevAddr) (reg reg' : RegNum) (v : Byte), s.cfg.space = .shared →
    targetByte (storeTarget dev reg v s) dev' reg = v ∧
    (reg' ≠ reg → targetByte (storeTarget dev reg v s) dev' reg' = targetByte s dev' reg')) ∧
  (∀ (init : Vector Byte 256) (fails : List Nat) (s : State) (n : Nat),
    ((faultTarget init fails s).answers[n]?).getD .plain =
      if n ∈ fails then .err .old [] else .plain) ∧
  (∀ (s : State) (dev dev' : DevAddr) (reg reg' : RegNum) (v : Byte), s.cfg.space = .perDevice →
    dev' ≠ dev → targetByte (storeTarget dev reg v s) dev' reg' = targetByte s dev' reg') ∧
  (∀ (s t : State) (q : BusRecord), step s = .next t → t.trace = s.trace ++ [q] →
    q.outcome ≠ .discarded →
    (∀ reg v, q.txn = .write reg v → nextAnswer s = .plain →
      q.outcome = .ok ∧ t.mem = (storeTarget q.dev reg v s).mem) ∧
    (∀ reg, q.txn = .read reg → nextAnswer s = .plain →
      q.outcome = .okByte (targetByte s q.dev reg) ∧ t.mem = s.mem) ∧
    (nextAnswer s = .err .old [] → q.outcome = .err ∧ t.mem = s.mem)) ∧
  (∀ (n : Nat) (init : Vector Byte 256) (fails : List Nat) (s t : State),
    runSteps n (faultTarget init fails s) = .next t →
    ∃ recs, t.trace = s.trace ++ recs ∧
      ∀ k q, recs[k]? = some q →
        (k ∈ fails → q.outcome = .err ∨ q.outcome = .discarded) ∧
        (k ∉ fails → q.outcome ≠ .err))
end

