-- ==== Sys2Proof/Laws/PerInstr.lean ====
section
/-! SUPPORT. Per-instruction facts about the encoding, one lemma per constructor. -/

namespace Sys2Proof.Laws

/-- The operation code of a command (30_encoding.md R81). -/
def opcodeOf : Instr → BitVec 4
  | .construct _ => 0x0
  | .softReset => 0x1
  | .setFrequency _ => 0x2
  | .writeSteps _ _ _ => 0x3
  | .writeDutyCycle _ _ => 0x4
  | .readDutyCycle _ => 0x5
  | .resetAllChannels => 0x6

/-- The operation field of a word put together from its three fields. -/
theorem wordOp_commandWord (op ch : BitVec 4) (arg : BitVec 32) :
    wordOp (commandWord op ch arg) = op := by
  apply BitVec.eq_of_getLsbD_eq
  intro k hk
  simp only [wordOp, commandWord, BitVec.getLsbD_extractLsb', BitVec.getLsbD_append]
  simp [hk, show ¬(36 + k < 32) by omega, show ¬(36 + k - 32 < 4) by omega,
    show 36 + k - 32 - 4 = k by omega]

/-- The channel field of a word put together from its three fields. -/
theorem wordCh_commandWord (op ch : BitVec 4) (arg : BitVec 32) :
    wordCh (commandWord op ch arg) = ch := by
  apply BitVec.eq_of_getLsbD_eq
  intro k hk
  simp only [wordCh, commandWord, BitVec.getLsbD_extractLsb', BitVec.getLsbD_append]
  simp [hk, show ¬(32 + k < 32) by omega, show 32 + k - 32 = k by omega]

/-- The operand field of a word put together from its three fields. -/
theorem wordArg_commandWord (op ch : BitVec 4) (arg : BitVec 32) :
    wordArg (commandWord op ch arg) = arg := by
  apply BitVec.eq_of_getLsbD_eq
  intro k hk
  simp only [wordArg, commandWord, BitVec.getLsbD_extractLsb', BitVec.getLsbD_append]
  simp [hk]

end Sys2Proof.Laws

namespace Sys2Proof.Laws.OpcodeField

/-- The word of a command carries the command's operation code in bits 39:36 (R80, R81). -/
def Statement (i : Instr) : Prop := wordOp (encode i) = opcodeOf i

theorem construct (dev : DevAddr) : Statement (.construct dev) := wordOp_commandWord _ _ _

theorem softReset : Statement .softReset := wordOp_commandWord _ _ _

theorem setFrequency (hz : Int) : Statement (.setFrequency hz) := wordOp_commandWord _ _ _

theorem writeSteps (ch : Channel) (on off : Int) : Statement (.writeSteps ch on off) :=
  wordOp_commandWord _ _ _

theorem writeDutyCycle (ch : Channel) (duty : Int) : Statement (.writeDutyCycle ch duty) :=
  wordOp_commandWord _ _ _

theorem readDutyCycle (ch : Channel) : Statement (.readDutyCycle ch) := wordOp_commandWord _ _ _

theorem resetAllChannels : Statement .resetAllChannels := wordOp_commandWord _ _ _

end Sys2Proof.Laws.OpcodeField
end

