-- ==== Sys2Proof/Laws/Encoding.lean ====
section
/-! SUPPORT. The fields of a command word and of a response word, and the two's-complement operands. -/

namespace Sys2Proof.Laws

open Sys2Proof.Machine

/-- A word is put together from its three fields (R80). -/
theorem commandWord_fields (w : CmdWord) : commandWord (wordOp w) (wordCh w) (wordArg w) = w := by
  apply BitVec.eq_of_getLsbD_eq
  intro k hk
  simp only [wordOp, wordCh, wordArg, commandWord, BitVec.getLsbD_append,
    BitVec.getLsbD_extractLsb']
  by_cases h1 : k < 32
  · simp [h1]
  · by_cases h2 : k < 36
    · simp [h1, show k - 32 < 4 by omega, show 32 + (k - 32) = k by omega]
    · simp [h1, show ¬(k - 32 < 4) by omega, show k - 32 - 4 < 4 by omega,
        show 36 + (k - 32 - 4) = k by omega]

/-- A device address operand leaves the bits above it 0 (R82). -/
theorem wordArgHigh_device (op ch : BitVec 4) (dev : DevAddr) :
    wordArgHigh (commandWord op ch (dev.setWidth 32)) = 0 := by
  apply BitVec.eq_of_getLsbD_eq
  intro k hk
  simp only [wordArgHigh, commandWord, BitVec.getLsbD_append, BitVec.getLsbD_extractLsb']
  simp [hk, show 7 + k < 32 by omega]

/-- A device address operand reads back (R82). -/
theorem wordDev_device (op ch : BitVec 4) (dev : DevAddr) :
    wordDev (commandWord op ch (dev.setWidth 32)) = dev := by
  apply BitVec.eq_of_getLsbD_eq
  intro k hk
  simp only [wordDev, commandWord, BitVec.getLsbD_append, BitVec.getLsbD_extractLsb']
  simp [hk, show k < 32 by omega]

/-- The upper step operand reads back (R85). -/
theorem wordOn_steps (op ch : BitVec 4) (a b : BitVec 16) :
    wordOn (commandWord op ch (a ++ b)) = a := by
  apply BitVec.eq_of_getLsbD_eq
  intro k hk
  simp only [wordOn, commandWord, BitVec.getLsbD_append, BitVec.getLsbD_extractLsb']
  simp [hk, show 16 + k < 32 by omega]

/-- The lower step operand reads back (R85). -/
theorem wordOff_steps (op ch : BitVec 4) (a b : BitVec 16) :
    wordOff (commandWord op ch (a ++ b)) = b := by
  apply BitVec.eq_of_getLsbD_eq
  intro k hk
  simp only [wordOff, commandWord, BitVec.getLsbD_append, BitVec.getLsbD_extractLsb']
  simp [hk, show k < 32 by omega]

theorem channelOf_channelField (ch : Channel) : channelOf (channelField ch) = ch := by
  apply Fin.ext
  simp [channelOf, channelField]

theorem channelField_channelOf (c : BitVec 4) : channelField (channelOf c) = c := by
  simp [channelField, channelOf]

/-- An operand that fits 32 bits reads back from its field (R84, R86). -/
theorem toInt_ofInt_32 {v : Int} (h : fitsSigned 32 v = true) : (BitVec.ofInt 32 v).toInt = v := by
  simp [fitsSigned] at h
  rw [BitVec.toInt_ofInt]
  simp [Int.bmod_def]
  omega

/-- An operand that fits 16 bits reads back from its field (R85). -/
theorem toInt_ofInt_16 {v : Int} (h : fitsSigned 16 v = true) : (BitVec.ofInt 16 v).toInt = v := by
  simp [fitsSigned] at h
  rw [BitVec.toInt_ofInt]
  simp [Int.bmod_def]
  omega

/-- A field's value fits the field. -/
theorem fitsSigned_toInt (n : Nat) (v : BitVec (n + 1)) : fitsSigned (n + 1) v.toInt = true := by
  have h1 := BitVec.toInt_lt (x := v)
  have h2 := BitVec.le_toInt (x := v)
  simp [fitsSigned] at *
  omega

/-- Status codes tell statuses apart (R91). -/
theorem statusCode_inj {a b : Status} (h : statusCode a = statusCode b) : a = b := by
  revert h
  cases a <;> cases b <;> decide

/-- A response word determines its status. -/
theorem rspWord_status_inj {a b : Status} {r q : BitVec 12} (h : rspWord a r = rspWord b q) :
    a = b := by
  apply statusCode_inj
  apply BitVec.eq_of_getLsbD_eq
  intro k hk
  have := congrArg (fun w => w.getLsbD (12 + k)) h
  simpa only [rspWord, BitVec.getLsbD_append, show ¬(12 + k < 12) by omega, if_false,
    Nat.add_sub_cancel_left, decide_false, cond_false] using this

end Sys2Proof.Laws
end

