-- ==== Sys2Proof/Laws/State.lean ====
section
/-! SUPPORT. For each update of the state, what each field is after it. -/

namespace Sys2Proof.Laws

open Sys2Proof.Machine

variable (s : State)

/-! ### storeTarget -/

@[simp] theorem storeTarget_cfg (dev : DevAddr) (reg : RegNum) (b : Byte) :
    (storeTarget dev reg b s).cfg = s.cfg := rfl
@[simp] theorem storeTarget_devAddr (dev : DevAddr) (reg : RegNum) (b : Byte) :
    (storeTarget dev reg b s).devAddr = s.devAddr := rfl
@[simp] theorem storeTarget_phase (dev : DevAddr) (reg : RegNum) (b : Byte) :
    (storeTarget dev reg b s).phase = s.phase := rfl
@[simp] theorem storeTarget_busy (dev : DevAddr) (reg : RegNum) (b : Byte) :
    (storeTarget dev reg b s).busy = s.busy := rfl
@[simp] theorem storeTarget_cmd (dev : DevAddr) (reg : RegNum) (b : Byte) :
    (storeTarget dev reg b s).cmd = s.cmd := rfl
@[simp] theorem storeTarget_seq (dev : DevAddr) (reg : RegNum) (b : Byte) :
    (storeTarget dev reg b s).seq = s.seq := rfl
@[simp] theorem storeTarget_rd (dev : DevAddr) (reg : RegNum) (b : Byte) :
    (storeTarget dev reg b s).rd = s.rd := rfl
@[simp] theorem storeTarget_cmdIn (dev : DevAddr) (reg : RegNum) (b : Byte) :
    (storeTarget dev reg b s).cmdIn = s.cmdIn := rfl
@[simp] theorem storeTarget_responses (dev : DevAddr) (reg : RegNum) (b : Byte) :
    (storeTarget dev reg b s).responses = s.responses := rfl
@[simp] theorem storeTarget_mem (dev : DevAddr) (reg : RegNum) (b : Byte) :
    (storeTarget dev reg b s).mem =
      Memory.store s.cfg s.mem (cellKey s.cfg dev reg) b := rfl
@[simp] theorem storeTarget_answers (dev : DevAddr) (reg : RegNum) (b : Byte) :
    (storeTarget dev reg b s).answers = s.answers := rfl
@[simp] theorem storeTarget_trace (dev : DevAddr) (reg : RegNum) (b : Byte) :
    (storeTarget dev reg b s).trace = s.trace := rfl
@[simp] theorem storeTarget_agenda (dev : DevAddr) (reg : RegNum) (b : Byte) :
    (storeTarget dev reg b s).agenda = s.agenda := rfl

/-! ### settle -/

@[simp] theorem settle_cfg (dev : DevAddr) (t : Txn) (r : Residue) (also : List TargetChange) :
    (settle dev t r also s).cfg = s.cfg := rfl
@[simp] theorem settle_devAddr (dev : DevAddr) (t : Txn) (r : Residue) (also : List TargetChange) :
    (settle dev t r also s).devAddr = s.devAddr := rfl
@[simp] theorem settle_phase (dev : DevAddr) (t : Txn) (r : Residue) (also : List TargetChange) :
    (settle dev t r also s).phase = s.phase := rfl
@[simp] theorem settle_busy (dev : DevAddr) (t : Txn) (r : Residue) (also : List TargetChange) :
    (settle dev t r also s).busy = s.busy := rfl
@[simp] theorem settle_cmd (dev : DevAddr) (t : Txn) (r : Residue) (also : List TargetChange) :
    (settle dev t r also s).cmd = s.cmd := rfl
@[simp] theorem settle_seq (dev : DevAddr) (t : Txn) (r : Residue) (also : List TargetChange) :
    (settle dev t r also s).seq = s.seq := rfl
@[simp] theorem settle_rd (dev : DevAddr) (t : Txn) (r : Residue) (also : List TargetChange) :
    (settle dev t r also s).rd = s.rd := rfl
@[simp] theorem settle_cmdIn (dev : DevAddr) (t : Txn) (r : Residue) (also : List TargetChange) :
    (settle dev t r also s).cmdIn = s.cmdIn := rfl
@[simp] theorem settle_responses (dev : DevAddr) (t : Txn) (r : Residue) (also : List TargetChange) :
    (settle dev t r also s).responses = s.responses := rfl
@[simp] theorem settle_answers (dev : DevAddr) (t : Txn) (r : Residue) (also : List TargetChange) :
    (settle dev t r also s).answers = s.answers := rfl
@[simp] theorem settle_trace (dev : DevAddr) (t : Txn) (r : Residue) (also : List TargetChange) :
    (settle dev t r also s).trace = s.trace := rfl
@[simp] theorem settle_agenda (dev : DevAddr) (t : Txn) (r : Residue) (also : List TargetChange) :
    (settle dev t r also s).agenda = s.agenda := rfl
@[simp] theorem settle_mem (dev : DevAddr) (t : Txn) (r : Residue) (also : List TargetChange) :
    (settle dev t r also s).mem =
      Memory.applyChanges s.cfg (t.changes dev r also) s.mem := rfl

/-! ### record -/

@[simp] theorem record_cfg (m : Master) (dev : DevAddr) (t : Txn) (o : BusOutcome) :
    (record m dev t o s).cfg = s.cfg := rfl
@[simp] theorem record_devAddr (m : Master) (dev : DevAddr) (t : Txn) (o : BusOutcome) :
    (record m dev t o s).devAddr = s.devAddr := rfl
@[simp] theorem record_phase (m : Master) (dev : DevAddr) (t : Txn) (o : BusOutcome) :
    (record m dev t o s).phase = s.phase := rfl
@[simp] theorem record_busy (m : Master) (dev : DevAddr) (t : Txn) (o : BusOutcome) :
    (record m dev t o s).busy = s.busy := rfl
@[simp] theorem record_cmd (m : Master) (dev : DevAddr) (t : Txn) (o : BusOutcome) :
    (record m dev t o s).cmd = s.cmd := rfl
@[simp] theorem record_seq (m : Master) (dev : DevAddr) (t : Txn) (o : BusOutcome) :
    (record m dev t o s).seq = s.seq := rfl
@[simp] theorem record_rd (m : Master) (dev : DevAddr) (t : Txn) (o : BusOutcome) :
    (record m dev t o s).rd = s.rd := rfl
@[simp] theorem record_cmdIn (m : Master) (dev : DevAddr) (t : Txn) (o : BusOutcome) :
    (record m dev t o s).cmdIn = s.cmdIn := rfl
@[simp] theorem record_responses (m : Master) (dev : DevAddr) (t : Txn) (o : BusOutcome) :
    (record m dev t o s).responses = s.responses := rfl
@[simp] theorem record_mem (m : Master) (dev : DevAddr) (t : Txn) (o : BusOutcome) :
    (record m dev t o s).mem = s.mem := rfl
@[simp] theorem record_answers (m : Master) (dev : DevAddr) (t : Txn) (o : BusOutcome) :
    (record m dev t o s).answers = s.answers := rfl
@[simp] theorem record_trace (m : Master) (dev : DevAddr) (t : Txn) (o : BusOutcome) :
    (record m dev t o s).trace = s.trace ++ [⟨m, dev, t, o⟩] := rfl
@[simp] theorem record_agenda (m : Master) (dev : DevAddr) (t : Txn) (o : BusOutcome) :
    (record m dev t o s).agenda = s.agenda := rfl

/-! ### popAnswer -/

@[simp] theorem popAnswer_cfg : (popAnswer s).cfg = s.cfg := rfl
@[simp] theorem popAnswer_devAddr : (popAnswer s).devAddr = s.devAddr := rfl
@[simp] theorem popAnswer_phase : (popAnswer s).phase = s.phase := rfl
@[simp] theorem popAnswer_busy : (popAnswer s).busy = s.busy := rfl
@[simp] theorem popAnswer_cmd : (popAnswer s).cmd = s.cmd := rfl
@[simp] theorem popAnswer_seq : (popAnswer s).seq = s.seq := rfl
@[simp] theorem popAnswer_rd : (popAnswer s).rd = s.rd := rfl
@[simp] theorem popAnswer_cmdIn : (popAnswer s).cmdIn = s.cmdIn := rfl
@[simp] theorem popAnswer_responses : (popAnswer s).responses = s.responses := rfl
@[simp] theorem popAnswer_mem : (popAnswer s).mem = s.mem := rfl
@[simp] theorem popAnswer_answers : (popAnswer s).answers = s.answers.tail := rfl
@[simp] theorem popAnswer_trace : (popAnswer s).trace = s.trace := rfl
@[simp] theorem popAnswer_agenda : (popAnswer s).agenda = s.agenda := rfl

/-! ### complete -/

section Complete

variable (m : Master) (dev : DevAddr) (t : Txn) (o : BusOutcome) (r : Residue) (also : List TargetChange)

@[simp] theorem complete_cfg : (complete m dev t o r also s).cfg = s.cfg := rfl
@[simp] theorem complete_devAddr : (complete m dev t o r also s).devAddr = s.devAddr := rfl
@[simp] theorem complete_phase : (complete m dev t o r also s).phase = s.phase := rfl
@[simp] theorem complete_busy : (complete m dev t o r also s).busy = s.busy := rfl
@[simp] theorem complete_cmd : (complete m dev t o r also s).cmd = s.cmd := rfl
@[simp] theorem complete_seq : (complete m dev t o r also s).seq = s.seq := rfl
@[simp] theorem complete_rd : (complete m dev t o r also s).rd = s.rd := rfl
@[simp] theorem complete_cmdIn : (complete m dev t o r also s).cmdIn = s.cmdIn := rfl
@[simp] theorem complete_responses : (complete m dev t o r also s).responses = s.responses := rfl
@[simp] theorem complete_agenda : (complete m dev t o r also s).agenda = s.agenda := rfl
@[simp] theorem complete_answers : (complete m dev t o r also s).answers = s.answers.tail := rfl
@[simp] theorem complete_trace :
    (complete m dev t o r also s).trace = s.trace ++ [⟨m, dev, t, o⟩] := rfl
@[simp] theorem complete_mem :
    (complete m dev t o r also s).mem = Memory.applyChanges s.cfg (t.changes dev r also) s.mem := rfl

end Complete

/-! ### latchRead -/

@[simp] theorem latchRead_cfg (t : Txn) (b : Byte) :
    (latchRead t b s).cfg = s.cfg := by cases t <;> rfl
@[simp] theorem latchRead_devAddr (t : Txn) (b : Byte) :
    (latchRead t b s).devAddr = s.devAddr := by cases t <;> rfl
@[simp] theorem latchRead_phase (t : Txn) (b : Byte) :
    (latchRead t b s).phase = s.phase := by cases t <;> rfl
@[simp] theorem latchRead_busy (t : Txn) (b : Byte) :
    (latchRead t b s).busy = s.busy := by cases t <;> rfl
@[simp] theorem latchRead_cmd (t : Txn) (b : Byte) :
    (latchRead t b s).cmd = s.cmd := by cases t <;> rfl
@[simp] theorem latchRead_seq (t : Txn) (b : Byte) :
    (latchRead t b s).seq = s.seq := by cases t <;> rfl
@[simp] theorem latchRead_cmdIn (t : Txn) (b : Byte) :
    (latchRead t b s).cmdIn = s.cmdIn := by cases t <;> rfl
@[simp] theorem latchRead_responses (t : Txn) (b : Byte) :
    (latchRead t b s).responses = s.responses := by cases t <;> rfl
@[simp] theorem latchRead_mem (t : Txn) (b : Byte) :
    (latchRead t b s).mem = s.mem := by cases t <;> rfl
@[simp] theorem latchRead_answers (t : Txn) (b : Byte) :
    (latchRead t b s).answers = s.answers := by cases t <;> rfl
@[simp] theorem latchRead_trace (t : Txn) (b : Byte) :
    (latchRead t b s).trace = s.trace := by cases t <;> rfl
@[simp] theorem latchRead_agenda (t : Txn) (b : Byte) :
    (latchRead t b s).agenda = s.agenda := by cases t <;> rfl

/-! ### advance -/

@[simp] theorem advance_cfg : (advance s).cfg = s.cfg := rfl
@[simp] theorem advance_devAddr : (advance s).devAddr = s.devAddr := rfl
@[simp] theorem advance_phase : (advance s).phase = s.phase := rfl
@[simp] theorem advance_busy : (advance s).busy = s.busy := rfl
@[simp] theorem advance_cmd : (advance s).cmd = s.cmd := rfl
@[simp] theorem advance_seq : (advance s).seq = s.seq + 1 := rfl
@[simp] theorem advance_rd : (advance s).rd = s.rd := rfl
@[simp] theorem advance_cmdIn : (advance s).cmdIn = s.cmdIn := rfl
@[simp] theorem advance_responses : (advance s).responses = s.responses := rfl
@[simp] theorem advance_mem : (advance s).mem = s.mem := rfl
@[simp] theorem advance_answers : (advance s).answers = s.answers := rfl
@[simp] theorem advance_trace : (advance s).trace = s.trace := rfl
@[simp] theorem advance_agenda : (advance s).agenda = s.agenda := rfl

/-! ### respond -/

@[simp] theorem respond_cfg (st : Status) (r : BitVec 12) : (respond st r s).cfg = s.cfg := rfl
@[simp] theorem respond_devAddr (st : Status) (r : BitVec 12) :
    (respond st r s).devAddr = s.devAddr := rfl
@[simp] theorem respond_phase (st : Status) (r : BitVec 12) :
    (respond st r s).phase = s.phase := rfl
@[simp] theorem respond_busy (st : Status) (r : BitVec 12) : (respond st r s).busy = false := rfl
@[simp] theorem respond_cmd (st : Status) (r : BitVec 12) : (respond st r s).cmd = s.cmd := rfl
@[simp] theorem respond_seq (st : Status) (r : BitVec 12) : (respond st r s).seq = s.seq := rfl
@[simp] theorem respond_rd (st : Status) (r : BitVec 12) : (respond st r s).rd = s.rd := rfl
@[simp] theorem respond_cmdIn (st : Status) (r : BitVec 12) :
    (respond st r s).cmdIn = s.cmdIn := rfl
@[simp] theorem respond_responses (st : Status) (r : BitVec 12) :
    (respond st r s).responses = s.responses ++ [rspWord st r] := rfl
@[simp] theorem respond_mem (st : Status) (r : BitVec 12) : (respond st r s).mem = s.mem := rfl
@[simp] theorem respond_answers (st : Status) (r : BitVec 12) :
    (respond st r s).answers = s.answers := rfl
@[simp] theorem respond_trace (st : Status) (r : BitVec 12) :
    (respond st r s).trace = s.trace := rfl
@[simp] theorem respond_agenda (st : Status) (r : BitVec 12) :
    (respond st r s).agenda = s.agenda := rfl

/-! ### raise -/

@[simp] theorem raise_cfg (st : Status) : (raise st s).cfg = s.cfg := rfl
@[simp] theorem raise_devAddr (st : Status) : (raise st s).devAddr = s.devAddr := rfl
@[simp] theorem raise_phase (st : Status) : (raise st s).phase = s.phase := rfl
@[simp] theorem raise_busy (st : Status) : (raise st s).busy = false := rfl
@[simp] theorem raise_cmd (st : Status) : (raise st s).cmd = s.cmd := rfl
@[simp] theorem raise_seq (st : Status) : (raise st s).seq = s.seq := rfl
@[simp] theorem raise_rd (st : Status) : (raise st s).rd = s.rd := rfl
@[simp] theorem raise_cmdIn (st : Status) : (raise st s).cmdIn = s.cmdIn := rfl
@[simp] theorem raise_responses (st : Status) :
    (raise st s).responses = s.responses ++ [rspWord st 0] := rfl
@[simp] theorem raise_mem (st : Status) : (raise st s).mem = s.mem := rfl
@[simp] theorem raise_answers (st : Status) : (raise st s).answers = s.answers := rfl
@[simp] theorem raise_trace (st : Status) : (raise st s).trace = s.trace := rfl
@[simp] theorem raise_agenda (st : Status) : (raise st s).agenda = s.agenda := rfl

/-! ### setPhase -/

@[simp] theorem setPhase_cfg (p : Phase) : (setPhase p s).cfg = s.cfg := rfl
@[simp] theorem setPhase_devAddr (p : Phase) : (setPhase p s).devAddr = s.devAddr := rfl
@[simp] theorem setPhase_phase (p : Phase) : (setPhase p s).phase = p := rfl
@[simp] theorem setPhase_busy (p : Phase) : (setPhase p s).busy = s.busy := rfl
@[simp] theorem setPhase_cmd (p : Phase) : (setPhase p s).cmd = s.cmd := rfl
@[simp] theorem setPhase_seq (p : Phase) : (setPhase p s).seq = s.seq := rfl
@[simp] theorem setPhase_rd (p : Phase) : (setPhase p s).rd = s.rd := rfl
@[simp] theorem setPhase_cmdIn (p : Phase) : (setPhase p s).cmdIn = s.cmdIn := rfl
@[simp] theorem setPhase_responses (p : Phase) : (setPhase p s).responses = s.responses := rfl
@[simp] theorem setPhase_mem (p : Phase) : (setPhase p s).mem = s.mem := rfl
@[simp] theorem setPhase_answers (p : Phase) : (setPhase p s).answers = s.answers := rfl
@[simp] theorem setPhase_trace (p : Phase) : (setPhase p s).trace = s.trace := rfl
@[simp] theorem setPhase_agenda (p : Phase) : (setPhase p s).agenda = s.agenda := rfl

/-! ### setDevAddr -/

@[simp] theorem setDevAddr_cfg (dev : DevAddr) : (setDevAddr dev s).cfg = s.cfg := rfl
@[simp] theorem setDevAddr_devAddr (dev : DevAddr) : (setDevAddr dev s).devAddr = dev := rfl
@[simp] theorem setDevAddr_phase (dev : DevAddr) : (setDevAddr dev s).phase = s.phase := rfl
@[simp] theorem setDevAddr_busy (dev : DevAddr) : (setDevAddr dev s).busy = s.busy := rfl
@[simp] theorem setDevAddr_cmd (dev : DevAddr) : (setDevAddr dev s).cmd = s.cmd := rfl
@[simp] theorem setDevAddr_seq (dev : DevAddr) : (setDevAddr dev s).seq = s.seq := rfl
@[simp] theorem setDevAddr_rd (dev : DevAddr) : (setDevAddr dev s).rd = s.rd := rfl
@[simp] theorem setDevAddr_cmdIn (dev : DevAddr) : (setDevAddr dev s).cmdIn = s.cmdIn := rfl
@[simp] theorem setDevAddr_responses (dev : DevAddr) :
    (setDevAddr dev s).responses = s.responses := rfl
@[simp] theorem setDevAddr_mem (dev : DevAddr) : (setDevAddr dev s).mem = s.mem := rfl
@[simp] theorem setDevAddr_answers (dev : DevAddr) : (setDevAddr dev s).answers = s.answers := rfl
@[simp] theorem setDevAddr_trace (dev : DevAddr) : (setDevAddr dev s).trace = s.trace := rfl
@[simp] theorem setDevAddr_agenda (dev : DevAddr) : (setDevAddr dev s).agenda = s.agenda := rfl

/-! ### accept -/

@[simp] theorem accept_cfg (w : CmdWord) (rest : List CmdWord) :
    (accept w rest s).cfg = s.cfg := rfl
@[simp] theorem accept_devAddr (w : CmdWord) (rest : List CmdWord) :
    (accept w rest s).devAddr = s.devAddr := rfl
@[simp] theorem accept_phase (w : CmdWord) (rest : List CmdWord) :
    (accept w rest s).phase = s.phase := rfl
@[simp] theorem accept_busy (w : CmdWord) (rest : List CmdWord) :
    (accept w rest s).busy = true := rfl
@[simp] theorem accept_cmd (w : CmdWord) (rest : List CmdWord) : (accept w rest s).cmd = w := rfl
@[simp] theorem accept_seq (w : CmdWord) (rest : List CmdWord) : (accept w rest s).seq = 0 := rfl
@[simp] theorem accept_rd (w : CmdWord) (rest : List CmdWord) : (accept w rest s).rd = s.rd := rfl
@[simp] theorem accept_cmdIn (w : CmdWord) (rest : List CmdWord) :
    (accept w rest s).cmdIn = rest := rfl
@[simp] theorem accept_responses (w : CmdWord) (rest : List CmdWord) :
    (accept w rest s).responses = s.responses := rfl
@[simp] theorem accept_mem (w : CmdWord) (rest : List CmdWord) :
    (accept w rest s).mem = s.mem := rfl
@[simp] theorem accept_answers (w : CmdWord) (rest : List CmdWord) :
    (accept w rest s).answers = s.answers := rfl
@[simp] theorem accept_trace (w : CmdWord) (rest : List CmdWord) :
    (accept w rest s).trace = s.trace := rfl
@[simp] theorem accept_agenda (w : CmdWord) (rest : List CmdWord) :
    (accept w rest s).agenda = s.agenda := rfl

/-! ### resetBlock -/

@[simp] theorem resetBlock_cfg : (resetBlock s).cfg = s.cfg := rfl
@[simp] theorem resetBlock_devAddr : (resetBlock s).devAddr = 0 := rfl
@[simp] theorem resetBlock_phase : (resetBlock s).phase = .uninitialized := rfl
@[simp] theorem resetBlock_busy : (resetBlock s).busy = false := rfl
@[simp] theorem resetBlock_cmd : (resetBlock s).cmd = 0 := rfl
@[simp] theorem resetBlock_seq : (resetBlock s).seq = 0 := rfl
@[simp] theorem resetBlock_rd : (resetBlock s).rd = zeroWindow := rfl
@[simp] theorem resetBlock_cmdIn : (resetBlock s).cmdIn = s.cmdIn := rfl
@[simp] theorem resetBlock_responses : (resetBlock s).responses = s.responses := rfl
@[simp] theorem resetBlock_mem : (resetBlock s).mem = s.mem := rfl
@[simp] theorem resetBlock_answers : (resetBlock s).answers = s.answers := rfl
@[simp] theorem resetBlock_trace : (resetBlock s).trace = s.trace := rfl
@[simp] theorem resetBlock_agenda : (resetBlock s).agenda = s.agenda := rfl

/-! ### popAgenda -/

@[simp] theorem popAgenda_cfg : (popAgenda s).cfg = s.cfg := rfl
@[simp] theorem popAgenda_devAddr : (popAgenda s).devAddr = s.devAddr := rfl
@[simp] theorem popAgenda_phase : (popAgenda s).phase = s.phase := rfl
@[simp] theorem popAgenda_busy : (popAgenda s).busy = s.busy := rfl
@[simp] theorem popAgenda_cmd : (popAgenda s).cmd = s.cmd := rfl
@[simp] theorem popAgenda_seq : (popAgenda s).seq = s.seq := rfl
@[simp] theorem popAgenda_rd : (popAgenda s).rd = s.rd := rfl
@[simp] theorem popAgenda_cmdIn : (popAgenda s).cmdIn = s.cmdIn := rfl
@[simp] theorem popAgenda_responses : (popAgenda s).responses = s.responses := rfl
@[simp] theorem popAgenda_mem : (popAgenda s).mem = s.mem := rfl
@[simp] theorem popAgenda_answers : (popAgenda s).answers = s.answers := rfl
@[simp] theorem popAgenda_trace : (popAgenda s).trace = s.trace := rfl
@[simp] theorem popAgenda_agenda : (popAgenda s).agenda = s.agenda.tail := rfl

/-! ### otherMove -/

section OtherMove

variable (dev : DevAddr) (t : Txn)

@[simp] theorem otherMove_cfg : (otherMove dev t s).cfg = s.cfg := by
  unfold otherMove; split <;> rfl
@[simp] theorem otherMove_devAddr : (otherMove dev t s).devAddr = s.devAddr := by
  unfold otherMove; split <;> rfl
@[simp] theorem otherMove_phase : (otherMove dev t s).phase = s.phase := by
  unfold otherMove; split <;> rfl
@[simp] theorem otherMove_busy : (otherMove dev t s).busy = s.busy := by
  unfold otherMove; split <;> rfl
@[simp] theorem otherMove_cmd : (otherMove dev t s).cmd = s.cmd := by
  unfold otherMove; split <;> rfl
@[simp] theorem otherMove_seq : (otherMove dev t s).seq = s.seq := by
  unfold otherMove; split <;> rfl
@[simp] theorem otherMove_rd : (otherMove dev t s).rd = s.rd := by
  unfold otherMove; split <;> rfl
@[simp] theorem otherMove_cmdIn : (otherMove dev t s).cmdIn = s.cmdIn := by
  unfold otherMove; split <;> rfl
@[simp] theorem otherMove_responses : (otherMove dev t s).responses = s.responses := by
  unfold otherMove; split <;> rfl
@[simp] theorem otherMove_agenda : (otherMove dev t s).agenda = s.agenda := by
  unfold otherMove; split <;> rfl

end OtherMove

/-! ### placeWord -/

@[simp] theorem placeWord_cfg (w : CmdWord) : (placeWord w s).cfg = s.cfg := rfl
@[simp] theorem placeWord_devAddr (w : CmdWord) : (placeWord w s).devAddr = s.devAddr := rfl
@[simp] theorem placeWord_phase (w : CmdWord) : (placeWord w s).phase = s.phase := rfl
@[simp] theorem placeWord_busy (w : CmdWord) : (placeWord w s).busy = true := rfl
@[simp] theorem placeWord_cmd (w : CmdWord) : (placeWord w s).cmd = w := rfl
@[simp] theorem placeWord_seq (w : CmdWord) : (placeWord w s).seq = 0 := rfl
@[simp] theorem placeWord_rd (w : CmdWord) : (placeWord w s).rd = s.rd := rfl
@[simp] theorem placeWord_cmdIn (w : CmdWord) : (placeWord w s).cmdIn = s.cmdIn := rfl
@[simp] theorem placeWord_responses (w : CmdWord) : (placeWord w s).responses = s.responses := rfl
@[simp] theorem placeWord_mem (w : CmdWord) : (placeWord w s).mem = s.mem := rfl
@[simp] theorem placeWord_answers (w : CmdWord) : (placeWord w s).answers = s.answers := rfl
@[simp] theorem placeWord_trace (w : CmdWord) : (placeWord w s).trace = s.trace := rfl
@[simp] theorem placeWord_agenda (w : CmdWord) : (placeWord w s).agenda = [] := rfl

end Sys2Proof.Laws
end

