-- ==== Sys2Proof/Laws/Memory.lean ====
section
/-! SUPPORT. The targets' registers: read after write, writes apart, the canonical form. -/

namespace Sys2Proof.Laws

open Sys2Proof.Machine

/-! ### Listed bytes -/

/-- An address reads the byte listed at it. -/
@[simp] theorem get_set_same (m : Memory) (a : Nat) (b : Byte) :
    Memory.get (Memory.set m a b) a = some b := by
  induction m with
  | nil => simp [Memory.set, Memory.get]
  | cons kc m ih =>
    obtain ⟨k, c⟩ := kc
    by_cases h₁ : a < k
    · simp [Memory.set, Memory.get, h₁]
    · by_cases h₂ : a = k
      · simp [Memory.set, Memory.get, h₂]
      · simp [Memory.set, Memory.get, h₁, h₂, ih]

/-- Listing a byte leaves every other address alone. -/
theorem get_set_ne (m : Memory) {a x : Nat} (b : Byte) (h : x ≠ a) :
    Memory.get (Memory.set m a b) x = Memory.get m x := by
  induction m with
  | nil => simp [Memory.set, Memory.get, h]
  | cons kc m ih =>
    obtain ⟨k, c⟩ := kc
    by_cases h₁ : a < k
    · simp [Memory.set, Memory.get, h₁, h]
    · by_cases h₂ : a = k
      · subst h₂; simp [Memory.set, Memory.get, h]
      · simp [Memory.set, Memory.get, h₁, h₂, ih]

/-- An erased address lists nothing. -/
@[simp] theorem get_erase_same (m : Memory) (a : Nat) : Memory.get (Memory.erase m a) a = none := by
  unfold Memory.erase
  induction m with
  | nil => rfl
  | cons kc m ih =>
    obtain ⟨k, c⟩ := kc
    by_cases h : k = a
    · simpa [h] using ih
    · simpa [h, Memory.get, Ne.symm h] using ih

/-- Erasing leaves every other address alone. -/
theorem get_erase_ne (m : Memory) {a x : Nat} (h : x ≠ a) :
    Memory.get (Memory.erase m a) x = Memory.get m x := by
  unfold Memory.erase
  induction m with
  | nil => rfl
  | cons kc m ih =>
    obtain ⟨k, c⟩ := kc
    by_cases hk : k = a
    · subst hk
      simpa [Memory.get, h] using ih
    · simp only [List.filter_cons, bne_iff_ne, ne_eq, hk, not_false_eq_true, if_true, Memory.get, ih]

/-! ### What an address holds -/

/-- An address holds the byte stored to it. -/
@[simp] theorem byteAt_store_same (cfg : Config) (m : Memory) (a : Nat) (b : Byte) :
    Memory.byteAt cfg (Memory.store cfg m a b) a = b := by
  unfold Memory.store Memory.byteAt
  split
  · simp [*]
  · simp

/-- A store leaves every other address alone. -/
theorem byteAt_store_ne (cfg : Config) (m : Memory) {a x : Nat} (b : Byte) (h : x ≠ a) :
    Memory.byteAt cfg (Memory.store cfg m a b) x = Memory.byteAt cfg m x := by
  unfold Memory.store Memory.byteAt
  split
  · rw [get_erase_ne m h]
  · rw [get_set_ne m b h]

/-- Changes leave every address alone that none of them names. -/
theorem byteAt_applyChanges_ne (cfg : Config) (cs : List TargetChange) (m : Memory) {a : Nat}
    (h : ∀ c ∈ cs, cellKey cfg c.dev c.reg ≠ a) :
    Memory.byteAt cfg (Memory.applyChanges cfg cs m) a = Memory.byteAt cfg m a := by
  induction cs generalizing m with
  | nil => rfl
  | cons c cs ih =>
    rw [Memory.applyChanges, ih _ fun d hd => h d (List.mem_cons_of_mem c hd)]
    exact byteAt_store_ne cfg m c.value (Ne.symm (h c List.mem_cons_self))

/-! ### The canonical form -/

theorem risingFrom_mono {m : Memory} {lo lo' : Nat} (hl : lo ≤ lo')
    (h : Memory.risingFrom lo' m = true) : Memory.risingFrom lo m = true := by
  cases m with
  | nil => rfl
  | cons kc m =>
    simp only [Memory.risingFrom, Bool.and_eq_true, decide_eq_true_eq] at h ⊢
    exact ⟨⟨hl.trans h.1.1, h.1.2⟩, h.2⟩

/-- Listing a byte keeps the addresses rising from any bound not above its address. -/
theorem risingFrom_set (m : Memory) {lo a : Nat} (b : Byte) (hlo : lo ≤ a) (ha : a < cellCount)
    (h : Memory.risingFrom lo m = true) : Memory.risingFrom lo (Memory.set m a b) = true := by
  induction m generalizing lo with
  | nil => simp [Memory.set, Memory.risingFrom, hlo, ha]
  | cons kc m ih =>
    obtain ⟨k, c⟩ := kc
    simp only [Memory.risingFrom, Bool.and_eq_true, decide_eq_true_eq] at h
    obtain ⟨⟨hk, hk'⟩, hm⟩ := h
    by_cases h₁ : a < k
    · simp [Memory.set, Memory.risingFrom, h₁, hlo, ha, hk', hm]
    · by_cases h₂ : a = k
      · subst h₂; simp [Memory.set, Memory.risingFrom, hlo, ha, hm]
      · simp [Memory.set, Memory.risingFrom, h₁, h₂, hk, hk', ih (by omega) hm]

/-- Erasing keeps the addresses rising. -/
theorem risingFrom_erase (m : Memory) {lo : Nat} (a : Nat) (h : Memory.risingFrom lo m = true) :
    Memory.risingFrom lo (Memory.erase m a) = true := by
  unfold Memory.erase
  induction m generalizing lo with
  | nil => rfl
  | cons kc m ih =>
    obtain ⟨k, c⟩ := kc
    simp only [Memory.risingFrom, Bool.and_eq_true, decide_eq_true_eq] at h
    by_cases hk : k = a
    · simpa [hk] using ih (risingFrom_mono (by omega) h.2)
    · simpa [hk, Memory.risingFrom, h.1] using ih h.2

/-- An entry of the list after listing a byte is that entry or an old one. -/
theorem mem_set {m : Memory} {a : Nat} {b : Byte} {c : Host.Cell} (h : c ∈ Memory.set m a b) :
    c = (a, b) ∨ c ∈ m := by
  induction m with
  | nil => simpa [Memory.set] using h
  | cons kc m ih =>
    obtain ⟨k, d⟩ := kc
    by_cases h₁ : a < k
    · simpa [Memory.set, h₁] using h
    · by_cases h₂ : a = k
      · subst h₂
        have h : c = (a, b) ∨ c ∈ m := by simpa [Memory.set] using h
        exact h.imp_right (List.mem_cons_of_mem _)
      · have h : c = (k, d) ∨ c ∈ Memory.set m a b := by simpa [Memory.set, h₁, h₂] using h
        rcases h with rfl | h
        · exact .inr List.mem_cons_self
        · exact (ih h).imp_right (List.mem_cons_of_mem _)

/-- A store keeps the canonical form. -/
theorem store_wf {cfg : Config} {m : Memory} {a : Nat} (b : Byte) (ha : a < cellCount)
    (h : Memory.wf cfg m = true) : Memory.wf cfg (Memory.store cfg m a b) = true := by
  simp only [Memory.wf, Bool.and_eq_true, List.all_eq_true, bne_iff_ne] at h ⊢
  unfold Memory.store
  split
  · exact ⟨risingFrom_erase m a h.1, fun c hc => h.2 c (List.mem_of_mem_filter hc)⟩
  · refine ⟨risingFrom_set m b (Nat.zero_le a) ha h.1, fun c hc => ?_⟩
    rcases mem_set hc with rfl | hc
    · assumption
    · exact h.2 c hc

/-- Every register's address is inside the space. -/
theorem cellKey_lt (cfg : Config) (dev : DevAddr) (reg : RegNum) : cellKey cfg dev reg < cellCount := by
  have := dev.isLt
  have := reg.isLt
  unfold cellKey cellCount
  split <;> omega

/-- Changes keep the canonical form. -/
theorem applyChanges_wf {cfg : Config} (cs : List TargetChange) {m : Memory}
    (h : Memory.wf cfg m = true) : Memory.wf cfg (Memory.applyChanges cfg cs m) = true := by
  induction cs generalizing m with
  | nil => exact h
  | cons c cs ih => exact ih (store_wf c.value (cellKey_lt cfg c.dev c.reg) h)

theorem storeTarget_wf (s : State) (dev : DevAddr) (reg : RegNum) (b : Byte)
    (h : Memory.wf s.cfg s.mem = true) : Memory.wf s.cfg (storeTarget dev reg b s).mem = true :=
  store_wf b (cellKey_lt s.cfg dev reg) h

/-- The effect of a transaction keeps the canonical form. -/
theorem settle_wf (s : State) (dev : DevAddr) (t : Txn) (r : Residue) (also : List TargetChange)
    (h : Memory.wf s.cfg s.mem = true) : Memory.wf s.cfg (settle dev t r also s).mem = true :=
  applyChanges_wf _ h

/-- Loading known contents keeps the canonical form. -/
theorem loadTarget_wf (dev : DevAddr) (n : Nat) (bytes : List Byte) (s : State)
    (h : Memory.wf s.cfg s.mem = true) :
    Memory.wf s.cfg (loadTarget dev n bytes s).mem = true := by
  induction bytes generalizing n s with
  | nil => exact h
  | cons b bytes ih => exact ih _ _ (storeTarget_wf s dev _ b h)

/-! ### Registers of a device -/

/-- Different registers of one device have different addresses. -/
theorem cellKey_inj_reg {cfg : Config} {dev : DevAddr} {reg reg' : RegNum}
    (h : cellKey cfg dev reg = cellKey cfg dev reg') : reg = reg' := by
  unfold cellKey at h
  split at h <;> exact BitVec.eq_of_toNat_eq (by omega)

theorem cellKey_ne {cfg : Config} {dev : DevAddr} {reg reg' : RegNum} (h : reg ≠ reg') :
    cellKey cfg dev reg ≠ cellKey cfg dev reg' := fun e => h (cellKey_inj_reg e)

/-- Where each device has its own registers, different devices or registers have different addresses. -/
theorem cellKey_inj_perDevice {cfg : Config} {dev dev' : DevAddr} {reg reg' : RegNum}
    (hs : cfg.space = .perDevice) (h : cellKey cfg dev reg = cellKey cfg dev' reg') :
    dev = dev' ∧ reg = reg' := by
  have := reg.isLt
  have := reg'.isLt
  simp only [cellKey, hs] at h
  exact ⟨BitVec.eq_of_toNat_eq (by omega), BitVec.eq_of_toNat_eq (by omega)⟩

/-- Where all devices share their registers, the device address is ignored (R65). -/
theorem cellKey_shared {cfg : Config} (hs : cfg.space = .shared) (dev dev' : DevAddr) (reg : RegNum) :
    cellKey cfg dev reg = cellKey cfg dev' reg := by
  simp [cellKey, hs]

/-- What a register holds depends on the parameters and the register contents alone. -/
theorem targetByte_congr {s t : State} (hc : t.cfg = s.cfg) (h : t.mem = s.mem) (dev : DevAddr)
    (reg : RegNum) : targetByte t dev reg = targetByte s dev reg := by
  simp [targetByte, h, hc]

@[simp] theorem targetByte_storeTarget_same (s : State) (dev : DevAddr) (reg : RegNum) (b : Byte) :
    targetByte (storeTarget dev reg b s) dev reg = b := by
  simp [targetByte]

theorem targetByte_storeTarget_ne (s : State) {dev dev' : DevAddr} {reg reg' : RegNum} (b : Byte)
    (h : cellKey s.cfg dev reg ≠ cellKey s.cfg dev' reg') :
    targetByte (storeTarget dev reg b s) dev' reg' = targetByte s dev' reg' :=
  byteAt_store_ne s.cfg s.mem b (Ne.symm h)

/-- A write changes the register it addresses and no other, whatever the answer says. -/
theorem targetByte_settle_write_ne (s : State) {dev dev' : DevAddr} {reg reg' : RegNum} (v : Byte)
    (r : Residue) (also : List TargetChange) (h : cellKey s.cfg dev reg ≠ cellKey s.cfg dev' reg') :
    targetByte (settle dev (.write reg v) r also s) dev' reg' = targetByte s dev' reg' := by
  refine byteAt_applyChanges_ne s.cfg _ s.mem fun c hc => ?_
  obtain ⟨b, -, rfl⟩ : ∃ b, (Txn.write reg v).landed r = some b ∧ ⟨dev, reg, b⟩ = c := by
    simpa [Txn.changes, Txn.sideEffects, Txn.reg] using hc
  exact h

/-- A transaction changes at most the register it addresses and the ones its answer lists. -/
theorem targetByte_settle_ne (s : State) {dev dev' : DevAddr} {reg' : RegNum} (t : Txn) (r : Residue)
    (also : List TargetChange) (h : cellKey s.cfg dev t.reg ≠ cellKey s.cfg dev' reg')
    (hs : ∀ c ∈ t.sideEffects also, cellKey s.cfg c.dev c.reg ≠ cellKey s.cfg dev' reg') :
    targetByte (settle dev t r also s) dev' reg' = targetByte s dev' reg' := by
  refine byteAt_applyChanges_ne s.cfg _ s.mem fun c hc => ?_
  simp only [Txn.changes, List.mem_append, List.mem_map] at hc
  rcases hc with ⟨b, -, rfl⟩ | hc
  · exact h
  · exact hs c hc

/-- What the register a write addresses holds afterwards. -/
theorem targetByte_settle_write_same (s : State) (dev : DevAddr) (reg : RegNum) (v : Byte)
    (r : Residue) (also : List TargetChange) :
    targetByte (settle dev (.write reg v) r also s) dev reg =
      ((Txn.write reg v).landed r).getD (targetByte s dev reg) := by
  cases r <;>
    simp [settle, targetByte, Txn.changes, Txn.landed, Txn.sideEffects, Txn.reg, Memory.applyChanges]

/-- A read of a plain store changes nothing. -/
@[simp] theorem settle_plain_read (s : State) (dev : DevAddr) (reg : RegNum) :
    settle dev (.read reg) .new [] s = s := rfl

end Sys2Proof.Laws
end

