-- ==== Sys2Proof/Laws/Ops.lean ====
section
/-! SUPPORT. What the shared operations can do: a bus transaction, one step of a command. -/

namespace Sys2Proof.Laws

open Sys2Proof.Machine

/-- A transaction is one of three things: done, failed, or waiting for its answer. -/
theorem transact_cases (t : Txn) (e : Status) (s : State) :
    (∃ b r also, transact t e s = answerOk t b r also s ∧
      ((nextAnswer s = .plain ∧ b = targetByte s s.devAddr t.reg ∧ r = .new ∧ also = []) ∨
        nextAnswer s = .ok b r also)) ∨
    (∃ r also, nextAnswer s = .err r also ∧ transact t e s = answerErr t r also e s) ∨
    (nextAnswer s = .silent ∧ transact t e s = s) := by
  cases h : nextAnswer s with
  | plain => exact .inl ⟨_, _, _, by simp [transact, h], .inl ⟨rfl, rfl, rfl, rfl⟩⟩
  | ok b r also => exact .inl ⟨b, r, also, by simp [transact, h], .inr rfl⟩
  | err r also => exact .inr (.inl ⟨r, also, rfl, by simp [transact, h]⟩)
  | silent => exact .inr (.inr ⟨rfl, by simp [transact, h]⟩)

/-- A transaction on a plain store. -/
theorem transact_plain {s : State} (h : nextAnswer s = .plain) (t : Txn) (e : Status) :
    transact t e s = answerOk t (targetByte s s.devAddr t.reg) .new [] s := by
  simp [transact, h]

/-- A transaction answered `ok` by any other target. -/
theorem transact_ok {s : State} {b : Byte} {r : Residue} {also : List TargetChange}
    (h : nextAnswer s = .ok b r also) (t : Txn) (e : Status) :
    transact t e s = answerOk t b r also s := by
  simp [transact, h]

/-- A failed transaction. -/
theorem transact_err {s : State} {r : Residue} {also : List TargetChange}
    (h : nextAnswer s = .err r also) (t : Txn) (e : Status) :
    transact t e s = answerErr t r also e s := by
  simp [transact, h]

/-- A transaction without an answer. -/
theorem transact_silent {s : State} (h : nextAnswer s = .silent) (t : Txn) (e : Status) :
    transact t e s = s := by
  simp [transact, h]

section AnswerOk

variable (t : Txn) (b : Byte) (r : Residue) (also : List TargetChange) (s : State)

@[simp] theorem answerOk_cfg : (answerOk t b r also s).cfg = s.cfg := by simp [answerOk]
@[simp] theorem answerOk_devAddr : (answerOk t b r also s).devAddr = s.devAddr := by simp [answerOk]
@[simp] theorem answerOk_phase : (answerOk t b r also s).phase = s.phase := by simp [answerOk]
@[simp] theorem answerOk_busy : (answerOk t b r also s).busy = s.busy := by simp [answerOk]
@[simp] theorem answerOk_cmd : (answerOk t b r also s).cmd = s.cmd := by simp [answerOk]
@[simp] theorem answerOk_seq : (answerOk t b r also s).seq = s.seq + 1 := by simp [answerOk]
@[simp] theorem answerOk_cmdIn : (answerOk t b r also s).cmdIn = s.cmdIn := by simp [answerOk]
@[simp] theorem answerOk_responses : (answerOk t b r also s).responses = s.responses := by
  simp [answerOk]
@[simp] theorem answerOk_answers : (answerOk t b r also s).answers = s.answers.tail := by
  simp [answerOk]
@[simp] theorem answerOk_trace :
    (answerOk t b r also s).trace = s.trace ++ [⟨.block, s.devAddr, t, t.okOutcome b⟩] := by
  simp [answerOk]
@[simp] theorem answerOk_agenda : (answerOk t b r also s).agenda = s.agenda := by simp [answerOk]
@[simp] theorem answerOk_mem :
    (answerOk t b r also s).mem = Memory.applyChanges s.cfg (t.changes s.devAddr r also) s.mem := by
  simp [answerOk]

/-- What the targets hold after a transaction done is what `settle` leaves. -/
theorem targetByte_answerOk (dev : DevAddr) (reg : RegNum) :
    targetByte (answerOk t b r also s) dev reg = targetByte (settle s.devAddr t r also s) dev reg := by
  simp [targetByte]

end AnswerOk

section AnswerErr

variable (t : Txn) (r : Residue) (also : List TargetChange) (e : Status) (s : State)

@[simp] theorem answerErr_cfg : (answerErr t r also e s).cfg = s.cfg := by simp [answerErr]
@[simp] theorem answerErr_devAddr : (answerErr t r also e s).devAddr = s.devAddr := by simp [answerErr]
@[simp] theorem answerErr_phase : (answerErr t r also e s).phase = s.phase := by simp [answerErr]
@[simp] theorem answerErr_busy : (answerErr t r also e s).busy = false := by simp [answerErr]
@[simp] theorem answerErr_cmd : (answerErr t r also e s).cmd = s.cmd := by simp [answerErr]
@[simp] theorem answerErr_seq : (answerErr t r also e s).seq = s.seq := by simp [answerErr]
@[simp] theorem answerErr_rd : (answerErr t r also e s).rd = s.rd := by simp [answerErr]
@[simp] theorem answerErr_cmdIn : (answerErr t r also e s).cmdIn = s.cmdIn := by simp [answerErr]
@[simp] theorem answerErr_responses :
    (answerErr t r also e s).responses = s.responses ++ [rspWord e 0] := by
  simp [answerErr]
@[simp] theorem answerErr_answers : (answerErr t r also e s).answers = s.answers.tail := by
  simp [answerErr]
@[simp] theorem answerErr_trace :
    (answerErr t r also e s).trace = s.trace ++ [⟨.block, s.devAddr, t, .err⟩] := by
  simp [answerErr]
@[simp] theorem answerErr_agenda : (answerErr t r also e s).agenda = s.agenda := by simp [answerErr]
@[simp] theorem answerErr_mem :
    (answerErr t r also e s).mem = Memory.applyChanges s.cfg (t.changes s.devAddr r also) s.mem := by
  simp [answerErr]

/-- What the targets hold after a failed transaction is what `settle` leaves. -/
theorem targetByte_answerErr (dev : DevAddr) (reg : RegNum) :
    targetByte (answerErr t r also e s) dev reg =
      targetByte (settle s.devAddr t r also s) dev reg := by
  simp [targetByte]

end AnswerErr

/-- One step of a command past its gate is one of three things. -/
theorem conduct_cases {p : Plan} {f : State → State} {s t : State}
    (h : conduct p f s = .next t) :
    (∃ st, p.operandError = some st ∧ t = raise st s) ∨
    (p.operandError = none ∧ ∃ x, p.txns[s.seq.toNat]? = some x ∧ t = transact x p.busError s) ∨
    (p.operandError = none ∧ p.txns[s.seq.toNat]? = none ∧ t = f s) := by
  unfold conduct at h
  split at h
  · exact .inl ⟨_, ‹_›, by simpa using h.symm⟩
  · split at h
    · exact .inr (.inl ⟨‹_›, _, ‹_›, by simpa using h.symm⟩)
    · exact .inr (.inr ⟨‹_›, ‹_›, by simpa using h.symm⟩)

theorem conduct_error {p : Plan} {f : State → State} {s : State} {st : Status}
    (h : p.operandError = some st) : conduct p f s = .next (raise st s) := by
  simp [conduct, h]

theorem conduct_txn {p : Plan} {f : State → State} {s : State} {x : Txn}
    (h : p.operandError = none) (hx : p.txns[s.seq.toNat]? = some x) :
    conduct p f s = .next (transact x p.busError s) := by
  simp [conduct, h, hx]

theorem conduct_finish {p : Plan} {f : State → State} {s : State}
    (h : p.operandError = none) (hx : p.txns[s.seq.toNat]? = none) :
    conduct p f s = .next (f s) := by
  simp [conduct, h, hx]

end Sys2Proof.Laws
end

