-- ==== Sys2Proof/Laws/Exec.lean ====
section
/-! SUPPORT. The seven meanings have one shape: gate, then one step of the command's plan. -/

namespace Sys2Proof.Laws

open Sys2Proof.Machine

/-- The state the command's transactions and its end start from: `construct` has written blk.dev_addr. -/
def entered (i : Instr) (s : State) : State := setDevAddr (deviceOf i s) s

/-- The OK end of a command. -/
def finishOf (i : Instr) (s : State) : State :=
  match i with
  | .construct _ => respond .ok 0 (setPhase .reset s)
  | .softReset => respond .ok 0 s
  | .setFrequency _ => respond .ok 0 (setPhase .configured s)
  | .writeSteps _ _ _ => finishChannelWrite s
  | .writeDutyCycle _ _ => finishChannelWrite s
  | .readDutyCycle _ => respond .ok (readResult s) s
  | .resetAllChannels => finishChannelWrite s

/-- Every meaning: refused by the phase gate, or one step of its plan. -/
theorem exec_eq_conduct (i : Instr) (s : State) :
    exec i s =
      if gateOpen i s.phase then conduct (planOf s.cfg i) (finishOf i) (entered i s)
      else .next (raise .notPermitted s) := by
  cases i <;>
    simp only [exec, execConstruct, execSoftReset, execSetFrequency, execWriteSteps,
      execWriteDutyCycle, execReadDutyCycle, execResetAllChannels, gateConstruct, gateModule,
      gateOpen, planOf, decide_eq_true_eq, ne_eq, decide_not, Bool.not_eq_true'] <;>
    by_cases h : s.phase = .uninitialized <;> simp [h] <;> rfl

section Entered

variable (i : Instr) (s : State)

@[simp] theorem entered_cfg : (entered i s).cfg = s.cfg := rfl
@[simp] theorem entered_devAddr : (entered i s).devAddr = deviceOf i s := rfl
@[simp] theorem entered_phase : (entered i s).phase = s.phase := rfl
@[simp] theorem entered_busy : (entered i s).busy = s.busy := rfl
@[simp] theorem entered_cmd : (entered i s).cmd = s.cmd := rfl
@[simp] theorem entered_seq : (entered i s).seq = s.seq := rfl
@[simp] theorem entered_rd : (entered i s).rd = s.rd := rfl
@[simp] theorem entered_cmdIn : (entered i s).cmdIn = s.cmdIn := rfl
@[simp] theorem entered_responses : (entered i s).responses = s.responses := rfl
@[simp] theorem entered_mem : (entered i s).mem = s.mem := rfl
@[simp] theorem entered_answers : (entered i s).answers = s.answers := rfl
@[simp] theorem entered_trace : (entered i s).trace = s.trace := rfl
@[simp] theorem entered_agenda : (entered i s).agenda = s.agenda := rfl

end Entered

section Finish

variable (i : Instr) (s : State)

@[simp] theorem finishOf_cfg : (finishOf i s).cfg = s.cfg := by cases i <;> rfl
@[simp] theorem finishOf_devAddr : (finishOf i s).devAddr = s.devAddr := by cases i <;> rfl
@[simp] theorem finishOf_busy : (finishOf i s).busy = false := by cases i <;> rfl
@[simp] theorem finishOf_cmd : (finishOf i s).cmd = s.cmd := by cases i <;> rfl
@[simp] theorem finishOf_seq : (finishOf i s).seq = s.seq := by cases i <;> rfl
@[simp] theorem finishOf_rd : (finishOf i s).rd = s.rd := by cases i <;> rfl
@[simp] theorem finishOf_cmdIn : (finishOf i s).cmdIn = s.cmdIn := by cases i <;> rfl
@[simp] theorem finishOf_mem : (finishOf i s).mem = s.mem := by cases i <;> rfl
@[simp] theorem finishOf_answers : (finishOf i s).answers = s.answers := by cases i <;> rfl
@[simp] theorem finishOf_trace : (finishOf i s).trace = s.trace := by cases i <;> rfl
@[simp] theorem finishOf_agenda : (finishOf i s).agenda = s.agenda := by cases i <;> rfl

end Finish

/-- What one step of a command can do. -/
theorem exec_cases {i : Instr} {s t : State} (h : exec i s = .next t) :
    (gateOpen i s.phase = false ∧ t = raise .notPermitted s) ∨
    (gateOpen i s.phase = true ∧
      ∃ st, (planOf s.cfg i).operandError = some st ∧ t = raise st (entered i s)) ∨
    (admitted i s = true ∧ ∃ x, (planOf s.cfg i).txns[s.seq.toNat]? = some x ∧
      t = transact x (planOf s.cfg i).busError (entered i s)) ∨
    (admitted i s = true ∧ (planOf s.cfg i).txns[s.seq.toNat]? = none ∧
      t = finishOf i (entered i s)) := by
  rw [exec_eq_conduct] at h
  cases hg : gateOpen i s.phase with
  | false => exact .inl ⟨rfl, by simpa [hg] using h.symm⟩
  | true =>
    rw [hg, if_pos rfl] at h
    obtain ⟨st, he, ht⟩ | ⟨he, x, hx, ht⟩ | ⟨he, hx, ht⟩ := conduct_cases h
    · exact .inr (.inl ⟨rfl, st, he, ht⟩)
    · exact .inr (.inr (.inl ⟨by simp [admitted, hg, he], x, hx, ht⟩))
    · exact .inr (.inr (.inr ⟨by simp [admitted, hg, he], hx, ht⟩))

end Sys2Proof.Laws
end

