-- ==== Sys2Proof/Laws/Plans.lean ====
section
/-! SUPPORT. The seven plans: their lengths, their statuses, the registers their transactions address. -/

namespace Sys2Proof.Laws

open Sys2Proof.Machine

/-- A sequence is as long as R24 says. -/
theorem length_txns (cfg : Config) (i : Instr) : (planOf cfg i).txns.length = sequenceLength i := by
  cases i <;>
    simp [planOf, constructPlan, softResetPlan, setFrequencyPlan, writeStepsPlan, writeDutyPlan,
      readDutyPlan, resetAllPlan, softResetTxns, applyFrequencyTxns, writeChannelTxns, writeDutyTxns,
      resetAllTxns, readChannelTxns, sequenceLength]

theorem sequenceLength_le (i : Instr) : sequenceLength i ≤ 64 := by
  cases i <;> simp [sequenceLength]

theorem busError_planOf (cfg : Config) (i : Instr) : (planOf cfg i).busError = busStatusOf i := by
  cases i <;> rfl

/-- `stepError` with the range written out (R204). -/
theorem stepError_eq (on off : Int) :
    stepError on off =
      if (0 ≤ on ∧ on < 4096) ∧ (0 ≤ off ∧ off < 4096) then none else some .invalidStepRange := by
  unfold stepError stepInRange Config.nSteps
  simp only [Bool.and_eq_true, decide_eq_true_eq]
  rfl

/-- The three commands that check operands, and when they reject them (R203 to R205). -/
theorem operandError_cases {cfg : Config} {i : Instr} {st : Status}
    (h : (planOf cfg i).operandError = some st) :
    (st = .invalidFrequency ∧ ∃ hz : Int, i = .setFrequency hz ∧ (hz < 40 ∨ 1000 < hz)) ∨
    (st = .invalidStepRange ∧ ∃ (ch : Channel) (on off : Int), i = .writeSteps ch on off ∧
      ¬((0 ≤ on ∧ on < 4096) ∧ (0 ≤ off ∧ off < 4096))) ∨
    (st = .invalidDutyCycle ∧ ∃ (ch : Channel) (n : Int), i = .writeDutyCycle ch n ∧
      (n < 0 ∨ 65536 < n)) := by
  cases i with
  | setFrequency hz =>
    simp only [planOf, setFrequencyPlan, frequencyError] at h
    split at h
    · exact .inl ⟨by simpa using h.symm, _, rfl, ‹_›⟩
    · cases h
  | writeSteps ch a b =>
    simp only [planOf, writeStepsPlan, stepError_eq] at h
    split at h
    · cases h
    · exact .inr (.inl ⟨by simpa using h.symm, _, _, _, rfl, ‹_›⟩)
  | writeDutyCycle ch n =>
    simp only [planOf, writeDutyPlan, dutyError] at h
    split at h
    · exact .inr (.inr ⟨by simpa using h.symm, _, _, rfl, ‹_›⟩)
    · cases h
  | construct dev => cases h
  | softReset => cases h
  | readDutyCycle ch => cases h
  | resetAllChannels => cases h

/-- The register numbers of a window (R120). -/
theorem window_toNat (ch : Channel) {k : Nat} (hk : k < 4) :
    (channelBase ch + BitVec.ofNat 8 k).toNat = 6 + 4 * ch.val + k := by
  have := ch.isLt
  simp [channelBase, Config.chBase0, Config.chStride]
  omega

theorem mem_writeChannelTxns {ch : Channel} {w : Window} {x : Txn}
    (h : x ∈ writeChannelTxns ch w) :
    ∃ k v, k < 4 ∧ x = .write (channelBase ch + BitVec.ofNat 8 k) v := by
  simp [writeChannelTxns] at h
  rcases h with rfl | rfl | rfl | rfl
  · exact ⟨0, w.onLow, by omega, by simp⟩
  · exact ⟨1, w.onHigh, by omega, by simp⟩
  · exact ⟨2, w.offLow, by omega, by simp⟩
  · exact ⟨3, w.offHigh, by omega, by simp⟩

theorem mem_readChannelTxns {ch : Channel} {x : Txn} (h : x ∈ readChannelTxns ch) :
    ∃ k, k < 4 ∧ x = .read (channelBase ch + BitVec.ofNat 8 k) := by
  simp [readChannelTxns] at h
  rcases h with rfl | rfl | rfl | rfl
  · exact ⟨0, by omega, by simp⟩
  · exact ⟨1, by omega, by simp⟩
  · exact ⟨2, by omega, by simp⟩
  · exact ⟨3, by omega, by simp⟩

/-- What a transaction of a plan can address (R55). -/
theorem txn_kinds {cfg : Config} {i : Instr} {x : Txn} (h : x ∈ (planOf cfg i).txns) :
    (∃ v, x = .write 0x00 v) ∨ (∃ v, x = .write 0x01 v) ∨
    ((∃ hz, i = .setFrequency hz) ∧ ∃ v, x = .write 0xFE v) ∨
    (∃ ch k, k < 4 ∧ ∃ v, x = .write (channelBase ch + BitVec.ofNat 8 k) v) ∨
    (∃ ch k, i = .readDutyCycle ch ∧ k < 4 ∧ x = .read (channelBase ch + BitVec.ofNat 8 k)) := by
  cases i with
  | construct d =>
    simp [planOf, constructPlan, softResetTxns] at h
    rcases h with rfl | rfl
    · exact .inl ⟨_, rfl⟩
    · exact .inr (.inl ⟨_, rfl⟩)
  | softReset =>
    simp [planOf, softResetPlan, softResetTxns] at h
    rcases h with rfl | rfl
    · exact .inl ⟨_, rfl⟩
    · exact .inr (.inl ⟨_, rfl⟩)
  | setFrequency hz =>
    simp [planOf, setFrequencyPlan, applyFrequencyTxns] at h
    rcases h with rfl | rfl | rfl | rfl
    · exact .inl ⟨_, rfl⟩
    · exact .inr (.inr (.inl ⟨⟨_, rfl⟩, _, rfl⟩))
    · exact .inl ⟨_, rfl⟩
    · exact .inr (.inl ⟨_, rfl⟩)
  | writeSteps ch a b =>
    obtain ⟨k, v, hk, rfl⟩ := mem_writeChannelTxns h
    exact .inr (.inr (.inr (.inl ⟨ch, k, hk, v, rfl⟩)))
  | writeDutyCycle ch a =>
    obtain ⟨k, v, hk, rfl⟩ := mem_writeChannelTxns h
    exact .inr (.inr (.inr (.inl ⟨ch, k, hk, v, rfl⟩)))
  | readDutyCycle ch =>
    obtain ⟨k, hk, rfl⟩ := mem_readChannelTxns h
    exact .inr (.inr (.inr (.inr ⟨ch, k, rfl, hk, rfl⟩)))
  | resetAllChannels =>
    simp only [planOf, resetAllPlan, resetAllTxns, List.mem_flatMap] at h
    obtain ⟨ch, -, h⟩ := h
    obtain ⟨k, v, hk, rfl⟩ := mem_writeChannelTxns h
    exact .inr (.inr (.inr (.inl ⟨ch, k, hk, v, rfl⟩)))

end Sys2Proof.Laws
end

