-- ==== Sys2Proof/Laws/Step.lean ====
section
/-! SUPPORT. What one step can do: the block's move, another master's, the reset input; and runs. -/

namespace Sys2Proof.Laws

open Sys2Proof.Machine

@[simp] theorem nextAnswer_popAgenda (s : State) : nextAnswer (popAgenda s) = nextAnswer s := rfl
@[simp] theorem nextAnswer_entered (i : Instr) (s : State) :
    nextAnswer (entered i s) = nextAnswer s := rfl
@[simp] theorem pendingTxn_popAgenda (s : State) : pendingTxn (popAgenda s) = pendingTxn s := rfl
@[simp] theorem targetByte_popAgenda (s : State) (dev : DevAddr) (reg : RegNum) :
    targetByte (popAgenda s) dev reg = targetByte s dev reg := rfl

/-- The block's move is one of four things. -/
theorem blockStep_cases {s t : State} (h : blockStep s = .next t) :
    (s.busy = false ∧ s.cmdIn = [] ∧ t = s) ∨
    (s.busy = false ∧ ∃ w rest, s.cmdIn = w :: rest ∧ t = accept w rest s) ∨
    (s.busy = true ∧ (∃ e, decode s.cmd = .error e) ∧ t = raise .illegalCommand s) ∨
    (s.busy = true ∧ ∃ i, decode s.cmd = .ok i ∧ exec i s = .next t) := by
  unfold blockStep fetch at h
  split at h
  · split at h
    · exact .inr (.inr (.inr ⟨‹_›, _, ‹_›, h⟩))
    · exact .inr (.inr (.inl ⟨‹_›, ⟨_, ‹_›⟩, by simpa using h.symm⟩))
  · split at h
    · exact .inl ⟨Bool.eq_false_iff.mpr ‹¬s.busy = true›, ‹_›, by simpa using h.symm⟩
    · exact .inr (.inl ⟨Bool.eq_false_iff.mpr ‹¬s.busy = true›, _, _, ‹_›, by simpa using h.symm⟩)

/-- A step is the move of the agent that the agenda names. -/
theorem step_cases {s t : State} (h : step s = .next t) :
    (nextEvent s = .blockMove ∧ blockStep (popAgenda s) = .next t) ∨
    (∃ d x, nextEvent s = .otherMaster d x ∧ t = otherMove d x (popAgenda s)) ∨
    (∃ tm, nextEvent s = .reset tm ∧ t = resetInput tm (popAgenda s)) := by
  unfold step at h
  cases he : nextEvent s with
  | blockMove => rw [he] at h; exact .inl ⟨rfl, h⟩
  | otherMaster d x =>
    rw [he] at h; exact .inr (.inl ⟨d, x, rfl, by simpa [agentStep] using h.symm⟩)
  | reset tm =>
    rw [he] at h; exact .inr (.inr ⟨tm, rfl, by simpa [agentStep] using h.symm⟩)

/-- Another master's transaction is done, failed, or waiting for its answer. -/
theorem otherMove_cases (d : DevAddr) (x : Txn) (s : State) :
    (∃ b r also, otherMove d x s = complete .other d x (x.okOutcome b) r also s ∧
      ((nextAnswer s = .plain ∧ b = targetByte s d x.reg ∧ r = .new ∧ also = []) ∨
        nextAnswer s = .ok b r also)) ∨
    (∃ r also, nextAnswer s = .err r also ∧ otherMove d x s = complete .other d x .err r also s) ∨
    (nextAnswer s = .silent ∧ otherMove d x s = s) := by
  cases h : nextAnswer s with
  | plain => exact .inl ⟨_, _, _, by simp [otherMove, h], .inl ⟨rfl, rfl, rfl, rfl⟩⟩
  | ok b r also => exact .inl ⟨b, r, also, by simp [otherMove, h], .inr rfl⟩
  | err r also => exact .inr (.inl ⟨r, also, rfl, by simp [otherMove, h]⟩)
  | silent => exact .inr (.inr ⟨rfl, by simp [otherMove, h]⟩)

/-- An abandoned write leaves the old byte or the new one, no third (R257). -/
theorem landedResidue_cases (a : BusAnswer) : a.landedResidue = .old ∨ a.landedResidue = .new := by
  unfold BusAnswer.landedResidue
  split <;> simp

/-- An abandoned transaction is recorded and leaves its register's old or new byte; a read leaves all. -/
theorem abandonTxn_cases (l : Bool) (s : State) :
    (pendingTxn s = none ∧ abandonTxn l s = s) ∨
    ∃ d x r, pendingTxn s = some (d, x) ∧ (r = .old ∨ r = .new) ∧
      r = (if l then (nextAnswer s).landedResidue else .old) ∧
      abandonTxn l s = complete .block d x .discarded r [] s := by
  cases h : pendingTxn s with
  | none => exact .inl ⟨rfl, by simp [abandonTxn, h]⟩
  | some q =>
    obtain ⟨d, x⟩ := q
    refine .inr ⟨d, x, _, rfl, ?_, rfl, by simp [abandonTxn, h]⟩
    cases l
    · exact .inl rfl
    · exact landedResidue_cases (nextAnswer s)

/-- What a step does on the bus, whoever moves: nothing, or one transaction, recorded, its answer taken, the
targets left as that answer says. -/
theorem step_bus_cases {s t : State} (h : step s = .next t) :
    (t.trace = s.trace ∧ t.answers = s.answers ∧ t.mem = s.mem) ∨
    ∃ m d x o r also, t.trace = s.trace ++ [⟨m, d, x, o⟩] ∧ t.answers = s.answers.tail ∧
      t.mem = Memory.applyChanges s.cfg (x.changes d r also) s.mem ∧
      (o = .discarded ∨
       (nextAnswer s = .plain ∧ o = x.okOutcome (targetByte s d x.reg) ∧ r = .new ∧ also = []) ∨
       (∃ b, nextAnswer s = .ok b r also ∧ o = x.okOutcome b) ∨
       (nextAnswer s = .err r also ∧ o = .err)) := by
  obtain ⟨-, h⟩ | ⟨d, x, -, rfl⟩ | ⟨tm, -, rfl⟩ := step_cases h
  · obtain ⟨-, -, rfl⟩ | ⟨-, _, _, -, rfl⟩ | ⟨-, -, rfl⟩ | ⟨-, i, -, h⟩ := blockStep_cases h
    · exact .inl ⟨rfl, rfl, rfl⟩
    · exact .inl ⟨rfl, rfl, rfl⟩
    · exact .inl ⟨rfl, rfl, rfl⟩
    · obtain ⟨-, rfl⟩ | ⟨-, st, -, rfl⟩ | ⟨-, x, -, rfl⟩ | ⟨-, -, rfl⟩ := exec_cases h
      · exact .inl ⟨rfl, rfl, rfl⟩
      · exact .inl ⟨rfl, rfl, rfl⟩
      · obtain ⟨b, r, also, ht, hr⟩ | ⟨r, also, hn, ht⟩ | ⟨-, ht⟩ :=
          transact_cases x (planOf (popAgenda s).cfg i).busError (entered i (popAgenda s))
        · refine .inr ⟨.block, deviceOf i (popAgenda s), x, x.okOutcome b, r, also, by rw [ht]; simp,
            by rw [ht]; simp, by rw [ht]; simp, ?_⟩
          rcases hr with ⟨h1, h2, h3, h4⟩ | hr
          · exact .inr (.inl ⟨h1, by rw [h2]; rfl, h3, h4⟩)
          · exact .inr (.inr (.inl ⟨b, hr, rfl⟩))
        · exact .inr ⟨.block, deviceOf i (popAgenda s), x, .err, r, also, by rw [ht]; simp,
            by rw [ht]; simp, by rw [ht]; simp, .inr (.inr (.inr ⟨hn, rfl⟩))⟩
        · rw [ht]; exact .inl ⟨rfl, rfl, rfl⟩
      · exact .inl ⟨by simp, by simp, by simp⟩
  · obtain ⟨b, r, also, ht, hr⟩ | ⟨r, also, hn, ht⟩ | ⟨-, ht⟩ :=
      otherMove_cases d x (popAgenda s)
    · refine .inr ⟨.other, d, x, x.okOutcome b, r, also, by rw [ht]; simp,
            by rw [ht]; simp, by rw [ht]; simp, ?_⟩
      rcases hr with ⟨h1, h2, h3, h4⟩ | hr
      · exact .inr (.inl ⟨h1, by rw [h2]; rfl, h3, h4⟩)
      · exact .inr (.inr (.inl ⟨b, hr, rfl⟩))
    · exact .inr ⟨.other, d, x, .err, r, also, by rw [ht]; simp,
            by rw [ht]; simp, by rw [ht]; simp, .inr (.inr (.inr ⟨hn, rfl⟩))⟩
    · rw [ht]; exact .inl ⟨rfl, rfl, rfl⟩
  · cases tm with
    | betweenTransactions => exact .inl ⟨rfl, rfl, rfl⟩
    | duringTransaction l =>
      obtain ⟨-, ht⟩ | ⟨d, x, r, -, -, -, ht⟩ := abandonTxn_cases l (popAgenda s)
      · simp only [resetInput, ht]; exact .inl ⟨rfl, rfl, rfl⟩
      · simp only [resetInput, ht]
        exact .inr ⟨.block, d, x, .discarded, r, [], rfl, rfl, rfl, .inl rfl⟩

theorem runSteps_zero (s : State) : runSteps 0 s = .next s := rfl

/-- A run's first step, when it answers a next state. -/
theorem runSteps_succ {s t : State} (n : Nat) (h : step s = .next t) :
    runSteps (n + 1) s = runSteps n t := by
  simp [runSteps, h]

/-- A run in two parts. -/
theorem runSteps_add {s t : State} (m n : Nat) (h : runSteps m s = .next t) :
    runSteps (m + n) s = runSteps n t := by
  induction m generalizing s with
  | zero =>
    rw [runSteps_zero] at h
    cases h
    rw [Nat.zero_add]
  | succ m ih =>
    cases hs : step s with
    | next u =>
      rw [runSteps_succ m hs] at h
      rw [Nat.add_right_comm, runSteps_succ (m + n) hs, ih h]
    | fault r => exact nomatch r
    | refused r => simp [runSteps, hs] at h

end Sys2Proof.Laws
end

