-- ==== Sys2Proof/Laws/Runs.lean ====
section
/-! SUPPORT. The steps of an undisturbed run, one lemma each: accept, transaction, OK response. -/

namespace Sys2Proof.Laws

open Sys2Proof.Machine

/-- A meaning always answers a next state. -/
theorem exec_next (i : Instr) (s : State) : ∃ t, exec i s = .next t := by
  rw [exec_eq_conduct]
  split
  · unfold conduct
    split
    · exact ⟨_, rfl⟩
    · split <;> exact ⟨_, rfl⟩
  · exact ⟨_, rfl⟩

/-- A transaction of an admitted command. -/
theorem exec_txn {s : State} {i : Instr} {x : Txn} (ha : admitted i s = true)
    (hx : (planOf s.cfg i).txns[s.seq.toNat]? = some x) :
    exec i s = .next (transact x (busStatusOf i) (entered i s)) := by
  simp only [admitted, Bool.and_eq_true, Option.isNone_iff_eq_none] at ha
  rw [exec_eq_conduct, if_pos ha.1, ← busError_planOf s.cfg i]
  exact conduct_txn ha.2 (by simpa using hx)

/-- The end of an admitted command. -/
theorem exec_finish {s : State} {i : Instr} (ha : admitted i s = true)
    (hx : (planOf s.cfg i).txns[s.seq.toNat]? = none) :
    exec i s = .next (finishOf i (entered i s)) := by
  simp only [admitted, Bool.and_eq_true, Option.isNone_iff_eq_none] at ha
  rw [exec_eq_conduct, if_pos ha.1]
  exact conduct_finish ha.2 (by simpa using hx)

theorem popAgenda_undisturbed {s : State} (h : s.undisturbed) : popAgenda s = s := by
  unfold State.undisturbed at h
  cases s
  simp at h
  subst h
  rfl

theorem nextEvent_undisturbed {s : State} (h : s.undisturbed) : nextEvent s = .blockMove := by
  unfold State.undisturbed at h
  simp [nextEvent, h]

theorem nextAnswer_plainBus {s : State} (h : s.plainBus) : nextAnswer s = .plain := by
  unfold nextAnswer
  cases ha : s.answers with
  | nil => rfl
  | cons a l => exact h a (by simp [ha])

/-- A busy block's step in an undisturbed run. -/
theorem step_busy {s : State} {i : Instr} (hb : s.busy = true) (hu : s.undisturbed)
    (hd : decode s.cmd = .ok i) : step s = exec i s := by
  rw [step, nextEvent_undisturbed hu, popAgenda_undisturbed hu]
  simp [agentStep, blockStep, fetch, hb, hd]

/-- An idle block takes the next word. -/
theorem step_accept {s : State} {w : CmdWord} {rest : List CmdWord} (hb : s.busy = false)
    (hu : s.undisturbed) (hc : s.cmdIn = w :: rest) : step s = .next (accept w rest s) := by
  rw [step, nextEvent_undisturbed hu, popAgenda_undisturbed hu]
  simp [agentStep, blockStep, hb, hc]

end Sys2Proof.Laws
end

