-- ==== Sys2Proof/Tests/Slice0.lean ====
section
/-! SUPPORT. Tests on fixed values, their expected results from 95_test_vectors.md and the examples of the
rules; and for every statement with hypotheses a concrete case that meets them. -/

set_option maxRecDepth 8000

namespace Sys2Proof.Tests

open Sys2Proof.Machine

/-- A block in phase `p`, its device 0x40, executing the word `w` and about to make transaction `n`. -/
def running (p : Phase) (w : CmdWord) (n : BitVec 7) : State :=
  { State.reset with phase := p, devAddr := 0x40, busy := true, cmd := w, seq := n }

/-- An idle block in phase `p`, its device 0x40, with the words `ws` on its port. -/
def idle (p : Phase) (ws : List CmdWord) : State :=
  { State.reset with phase := p, devAddr := 0x40, cmdIn := ws }

/-- What a test looks at after one step: transactions, responses, blk.seq, phase. -/
def shown (s : State) : Option (List BusRecord × List RspWord × BitVec 7 × Phase) :=
  (nextState (step s)).map fun t => (t.trace, t.responses, t.seq, t.phase)

/-- A transaction of the block to device 0x40. -/
def made (x : Txn) (o : BusOutcome) : BusRecord := ⟨.block, 0x40, x, o⟩

/-! ### WellFormed: an ill-formed term for each check, refused -/

theorem test_frequency_wider_than_32_bits : (Instr.setFrequency 2147483648).wellFormed = false := by
  decide
theorem test_frequency_below_32_bits : (Instr.setFrequency (-2147483649)).wellFormed = false := by
  decide
theorem test_onStep_wider_than_16_bits : (Instr.writeSteps 0 32768 0).wellFormed = false := by decide
theorem test_offStep_below_16_bits : (Instr.writeSteps 0 0 (-32769)).wellFormed = false := by decide
theorem test_duty_wider_than_32_bits : (Instr.writeDutyCycle 0 2147483648).wellFormed = false := by
  decide
theorem test_duty_below_32_bits : (Instr.writeDutyCycle 0 (-2147483649)).wellFormed = false := by
  decide

/-! ### Decode: one word per command, written bit by bit from R80 to R88 (values of V5) -/

theorem test_decode_construct :
    decode 0b0000_0000_0000000000000000000000000_1000000 = .ok (.construct 64) := by decide
theorem test_decode_softReset :
    decode 0b0001_0000_00000000000000000000000000000000 = .ok .softReset := by decide
theorem test_decode_setFrequency :
    decode 0b0010_0000_00000000000000000000000000111100 = .ok (.setFrequency 60) := by decide
theorem test_decode_writeSteps :
    decode 0b0011_0101_0000000000000000_0000100000000000 = .ok (.writeSteps 5 0 2048) := by decide
theorem test_decode_writeDutyCycle :
    decode 0b0100_1001_00000000000000010000000000000000 = .ok (.writeDutyCycle 9 65536) := by decide
theorem test_decode_readDutyCycle :
    decode 0b0101_1111_00000000000000000000000000000000 = .ok (.readDutyCycle 15) := by decide
theorem test_decode_resetAllChannels :
    decode 0b0110_0000_00000000000000000000000000000000 = .ok .resetAllChannels := by decide
/-- Signed operands of V5: hz −1, offStep −1. -/
theorem test_decode_signed_operands :
    decode 0x20FFFFFFFF = .ok (.setFrequency (-1)) ∧
    decode 0x300000FFFF = .ok (.writeSteps 0 0 (-1)) := by decide
/-- The illegal words of V5. -/
theorem test_decode_illegal_words :
    decode 0x7000000000 = .error .reservedOperation ∧ decode 0xFFFFFFFFFF = .error .reservedOperation ∧
    decode 0x0000000080 = .error .argumentNotZero ∧ decode 0x0100000040 = .error .channelNotZero ∧
    decode 0x1100000000 = .error .channelNotZero ∧ decode 0x1000000001 = .error .argumentNotZero ∧
    decode 0x250000003C = .error .channelNotZero ∧ decode 0x5000000001 = .error .argumentNotZero ∧
    decode 0x6000000001 = .error .argumentNotZero ∧ decode 0x6F00000000 = .error .channelNotZero := by
  decide
theorem test_encode_words :
    encode (.writeSteps 15 4095 4095) = 0x3F0FFF0FFF ∧ encode (.setFrequency (-1)) = 0x20FFFFFFFF ∧
    encode (.writeDutyCycle 5 32768) = 0x4500008000 ∧ encode (.construct 0x7F) = 0x000000007F := by
  decide
theorem test_table_word : decodeTableWord 40 0x3F0FFF0FFF = some (.writeSteps 15 4095 4095) := by
  decide
/-- The word placed by the host is the one the next step runs; from reset the phase gate answers it. -/
theorem test_fetch_word :
    (nextState (step (State.reset.withFetchWord 40 0x2000000027))).map (·.responses) =
      some [0x9000] := by decide

/-! ### Pure functions (V1 to V4) -/

theorem test_channel_base : channelBase 0 = 0x06 ∧ channelBase 5 = 0x1A ∧ channelBase 15 = 0x42 := by
  decide
theorem test_encode_step_pair :
    encodeStepPair ⟨291, 3564⟩ = ⟨0x23, 0x01, 0xEC, 0x0D⟩ ∧
    encodeStepPair ⟨3000, 1000⟩ = ⟨0xB8, 0x0B, 0xE8, 0x03⟩ := by decide
theorem test_decode_step_pair_drops_high_nibbles :
    decodeStepPair ⟨0x34, 0xA2, 0x78, 0x56⟩ = ⟨564, 1656⟩ ∧
    decodeStepPair ⟨0x00, 0x10, 0x00, 0xF0⟩ = ⟨0, 0⟩ := by decide
theorem test_prescale :
    prescaleOf Config.default.tie 60 = 101 ∧ prescaleOf Config.default.tie 40 = 152 ∧
    prescaleOf Config.default.tie 61 = 99 ∧ prescaleOf Config.default.tie 1000 = 5 := by decide
theorem test_duty_to_steps :
    dutyToSteps .halfAwayFromZero 1 2 = ⟨0, 2048⟩ ∧ dutyToSteps .halfTowardZero 1 2 = ⟨0, 2047⟩ ∧
    dutyToSteps .halfAwayFromZero 3 4 = ⟨0, 3071⟩ ∧ dutyToSteps .halfAwayFromZero 9 65536 = ⟨0, 1⟩ := by
  decide
theorem test_steps_to_duty :
    stepsToDuty ⟨7, 7⟩ = 0 ∧ stepsToDuty ⟨4095, 0⟩ = 4095 ∧ stepsToDuty ⟨3000, 1000⟩ = 2000 ∧
    stepsToDuty ⟨291, 1000⟩ = 709 := by decide

/-! ### Commands: one step each (V6, V7, V8, programs P1 to P6) -/

theorem test_construct_first_write :
    shown (running .uninitialized 0x0000000041 0) =
      some ([⟨.block, 0x41, .write 0x00 0x00, .ok⟩], [], 1, .uninitialized) := by decide
theorem test_construct_second_write_fails :
    shown { running .uninitialized 0x0000000040 1 with answers := [.err .old []] } =
      some ([made (.write 0x01 0x04) .err], [0x7000], 1, .uninitialized) := by decide
theorem test_softReset_second_write :
    shown (running .configured 0x1000000000 1) =
      some ([made (.write 0x01 0x04) .ok], [], 2, .configured) := by decide
theorem test_softReset_first_write_fails :
    shown { running .reset 0x1000000000 0 with answers := [.err .old []] } =
      some ([made (.write 0x00 0x00) .err], [0x1000], 0, .reset) := by decide
theorem test_setFrequency_prescale_write :
    shown (running .configured 0x2000000028 1) =
      some ([made (.write 0xFE 0x98) .ok], [], 2, .configured) := by decide
theorem test_setFrequency_ends_in_configured :
    shown (running .active 0x200000003C 4) = some ([], [0x0000], 4, .configured) := by decide
theorem test_writeSteps_high_byte :
    shown (running .configured 0x30010000FF 1) =
      some ([made (.write 0x07 0x01) .ok], [], 2, .configured) := by decide
theorem test_writeSteps_third_write_fails :
    shown { running .reset 0x3201230DEC 2 with answers := [.err .old []] } =
      some ([made (.write 0x10 0xEC) .err], [0x6000], 2, .reset) := by decide
theorem test_writeDutyCycle_last_write :
    shown (running .configured 0x410000C000 3) =
      some ([made (.write 0x0D 0x0B) .ok], [], 4, .configured) := by decide
theorem test_writeDutyCycle_ends_in_active :
    shown (running .configured 0x4900010000 4) = some ([], [0x0000], 4, .active) := by decide
theorem test_readDutyCycle_read :
    (nextState (step (storeTarget 0x40 0x0C 0xFF (running .configured 0x5100000000 2)))).map
      (fun t => (t.trace, t.rd)) =
      some ([made (.read 0x0C) (.okByte 0xFF)], ⟨0x00, 0x00, 0xFF, 0x00⟩) := by decide
theorem test_readDutyCycle_result :
    shown { running .configured 0x5F00000000 4 with rd := ⟨0xFF, 0x1F, 0x00, 0xF0⟩ } =
      some ([], [0x0FFF], 4, .configured) := by decide
theorem test_resetAllChannels_last_write :
    shown (running .configured 0x6000000000 63) =
      some ([made (.write 0x45 0x00) .ok], [], 64, .configured) := by decide
theorem test_resetAllChannels_write_22_fails :
    shown { running .reset 0x6000000000 22 with answers := [.err .old []] } =
      some ([made (.write 0x1C 0x00) .err], [0x6000], 22, .reset) := by decide

/-- The refusals of P4, one step after acceptance. -/
theorem test_refusals :
    shown (running .reset 0x2000000027 0) = some ([], [0x3000], 0, .reset) ∧
    shown (running .reset 0x3010000000 0) = some ([], [0x4000], 0, .reset) ∧
    shown (running .reset 0x300000FFFF 0) = some ([], [0x4000], 0, .reset) ∧
    shown (running .reset 0x4000010001 0) = some ([], [0x5000], 0, .reset) ∧
    shown (running .reset 0x0000000042 0) = some ([], [0x9000], 0, .reset) ∧
    shown (running .uninitialized 0x7000000000 0) = some ([], [0x8000], 0, .uninitialized) :=
  ⟨by decide, by decide, by decide, by decide, by decide, by decide⟩

/-- A failed write can leave any byte (93 U1). -/
theorem test_failed_write_residue :
    (nextState (step { running .reset 0x1000000000 0 with answers := [.err (.byte 0x77) []] })).map
      (·.mem) = some [(64 * 256, 0x77)] := by decide

/-- Registers 0, 1, 2, … of a target hold 0, 1, 2, … at power-on. -/
def counting : Vector Byte 256 := Vector.ofFn fun n => BitVec.ofNat 8 n.val

/-- Program P5: what was written under device 0x40 is read under 0x41, the fixtures ignoring the device
(R65). -/
theorem test_reference_target_ignores_the_device :
    targetByte (storeTarget 0x40 0x01 0x04 (referenceTarget counting (idle .reset []))) 0x41 0x01 =
      0x04 ∧
    targetByte (storeTarget 0x40 0x01 0x04 (referenceTarget counting (idle .reset []))) 0x40 0x00 =
      0x00 := by decide
/-- Where each device has its own registers (R27), it is not. -/
theorem test_devices_apart :
    targetByte (storeTarget 0x40 0x01 0x04
      { idle .reset [] with cfg := { Config.default with targetInit := some counting } }) 0x41 0x01 =
      0x01 := by decide
/-- A known TARGET_INIT (R7): the first step that reads channel 0 sees it. -/
theorem test_known_power_on_contents :
    shown (referenceTarget counting (running .configured 0x5000000000 0)) =
      some ([made (.read 0x06) (.okByte 0x06)], [], 1, .configured) := by decide
/-- Storing the power-on byte lists nothing: equal register contents are equal data. -/
theorem test_store_of_the_power_on_byte :
    (storeTarget 0x40 0x45 0x45 (storeTarget 0x40 0x45 0x00
      (referenceTarget counting (idle .reset [])))).mem = [] := by decide
/-- The third transaction of the log fails (P6's "3rd of 4 channel-write calls"), register unchanged. -/
theorem test_fault_target :
    (faultTarget counting [2] (idle .reset [])).answers = [.plain, .plain, .err .old []] := by decide
/-- Number 0 of the fault target's log can be another master's transaction: it fails, register unchanged,
and the next transaction, the block's, is number 1 (R65). -/
theorem test_fault_target_numbers_all_transactions :
    (nextState (step (faultTarget counting [0] { running .reset 0x1000000000 0 with
        agenda := [.otherMaster 0x41 (.write 0x06 5)] }))).map (fun t => (t.trace, t.mem, t.answers)) =
      some ([⟨.other, 0x41, .write 0x06 5, .err⟩], [], []) := by decide
/-- A write that had reached the fault target when the reset came changes nothing if its number fails. -/
theorem test_reset_during_a_failing_write :
    (nextState (step (faultTarget counting [0] { running .reset 0x1000000000 0 with
        agenda := [.reset (.duringTransaction true)] }))).map (fun t => (t.trace, t.mem)) =
      some ([made (.write 0x00 0x00) .discarded], []) := by decide
/-- A read can change another register of the target (R59, D19). -/
theorem test_read_side_effect :
    (nextState (step { running .configured 0x5000000000 0 with
        answers := [.ok 0x12 .old [⟨0x40, 0xFE, 0x34⟩]] })).map (fun t => (t.mem, t.rd)) =
      some ([(64 * 256 + 254, 0x34)], ⟨0x12, 0x00, 0x00, 0x00⟩) := by decide

/-! ### A case that meets the hypotheses of each statement -/

theorem witness_DecodeOfEncodeIsTheCommand :
    (Instr.setFrequency (-2147483648)).wellFormed = true ∧
    (Instr.writeSteps 15 (-32768) 32767).wellFormed = true ∧
    (Instr.writeDutyCycle 0 2147483647).wellFormed = true := by decide

theorem witness_EncodeOfDecodeIsTheWord :
    decode 0x000000007F = .ok (.construct 127) ∧
    decode 0x2080000000 = .ok (.setFrequency (-2147483648)) := by decide

theorem witness_IllegalWordsAreRejected :
    (∃ r ∈ opcodeTable, ∃ q ∈ opcodeTable, r.holds 0x000000007F = true ∧ q.holds 0x000000007F = true) ∧
    (running .reset 0x0000000080 0).busy = true ∧
    nextEvent (running .reset 0x0000000080 0) = .blockMove ∧
    decode (running .reset 0x0000000080 0).cmd = .error .argumentNotZero := by decide

theorem witness_StepRunsTheDecodedCommand :
    (running .reset 0x5F00000000 3).busy = true ∧
    nextEvent (running .reset 0x5F00000000 3) = .blockMove ∧
    decode (running .reset 0x5F00000000 3).cmd = .ok (.readDutyCycle 15) := by decide

theorem witness_CommandIsAcceptedOnlyWhileIdle :
    ((idle .reset [0, 7]).busy = false ∧ nextEvent (idle .reset [0, 7]) = .blockMove ∧
      (idle .reset [0, 7]).cmdIn = 0 :: [7]) ∧
    ((idle .reset []).busy = false ∧ nextEvent (idle .reset []) = .blockMove ∧
      (idle .reset []).cmdIn = []) ∧
    ((running .reset 0x1000000000 2).busy = true ∧
      ∃ t, step (running .reset 0x1000000000 2) = .next t) :=
  ⟨by decide, by decide, by decide, _, rfl⟩

theorem witness_ResetReturnsToUninitialized :
    nextEvent { running .active 0x6000000000 9 with agenda := [.reset .betweenTransactions] } =
      .reset .betweenTransactions := by decide

/-- The two clauses: a write is outstanding (its register, and one apart), a read is outstanding. -/
theorem witness_ResetAbandonsTheRunningCommand :
    let s := { running .active 0x6000000000 63 with agenda := [.reset (.duringTransaction true)] }
    let r := { running .active 0x5000000000 0 with agenda := [.reset (.duringTransaction false)] }
    (nextEvent s = .reset (.duringTransaction true) ∧
      pendingTxn s = some (0x40, .write 0x45 0x00) ∧
      cellKey s.cfg 0x40 0x45 ≠ cellKey s.cfg 0x41 0x45) ∧
    (nextEvent r = .reset (.duringTransaction false) ∧ pendingTxn r = some (0x40, .read 0x06)) := by
  decide

/-- A write and a read of a plain store, a write of another target that takes it and of one that fails; and
a register that a read with a side effect leaves alone. -/
theorem witness_OtherMastersLeaveTheBlockAlone :
    let s := fun (x : Txn) (a : BusAnswer) =>
      { idle .reset [] with agenda := [.otherMaster 0x40 x], answers := [a] }
    (∀ a ∈ [BusAnswer.plain, .ok 0 (.byte 7) [], .err .new []],
      nextEvent (s (.write 0xFE 1) a) = .otherMaster 0x40 (.write 0xFE 1) ∧
      nextAnswer (s (.write 0xFE 1) a) = a) ∧
    (nextEvent (s (.read 0x45) .plain) = .otherMaster 0x40 (.read 0x45) ∧
      nextAnswer (s (.read 0x45) .plain) = .plain) ∧
    (let r := s (.read 0x06) (.err .old [⟨0x40, 0x07, 9⟩]);
      nextEvent r = .otherMaster 0x40 (.read 0x06) ∧
      cellKey r.cfg 0x40 (Txn.read 0x06).reg ≠ cellKey r.cfg 0x40 0x08 ∧
      ∀ c ∈ (Txn.read 0x06).sideEffects (nextAnswer r).also,
        cellKey r.cfg c.dev c.reg ≠ cellKey r.cfg 0x40 0x08) := by
  decide

/-- Either register space, two registers and two devices, the first and the last byte; a write, a read and a
failure, each made by another master; a run whose failing transaction is another master's. -/
theorem witness_ReferenceTargetIgnoresTheDevice :
    ((referenceTarget counting (idle .reset [])).cfg.space = .shared ∧ (0x00 : RegNum) ≠ 0xFF ∧
      (idle .reset []).cfg.space = .perDevice ∧ (0x41 : DevAddr) ≠ 0x40) ∧
    (let s := fun (x : Txn) (a : BusAnswer) =>
        { idle .reset [] with agenda := [.otherMaster 0x40 x], answers := [a] };
      (nextAnswer (s (.write 0xFE 1) .plain) = .plain ∧
        (nextState (step (s (.write 0xFE 1) .plain))).map (·.trace) =
          some [⟨.other, 0x40, .write 0xFE 1, .ok⟩]) ∧
      (∃ b, (nextState (step (s (.read 0xFE) .plain))).map (·.trace) =
        some [⟨.other, 0x40, .read 0xFE, .okByte b⟩]) ∧
      (nextState (step (s (.write 0xFE 1) (.err .old [])))).map (·.trace) =
        some [⟨.other, 0x40, .write 0xFE 1, .err⟩]) ∧
    (let s := { running .reset 0x1000000000 0 with agenda := [.otherMaster 0x41 (.write 0x06 5)] };
      ∃ t, runSteps 2 (faultTarget counting [0, 2] s) = .next t ∧
        t.trace = [⟨.other, 0x41, .write 0x06 5, .err⟩] ++ [made (.write 0x00 0x00) .ok]) :=
  ⟨by decide, ⟨by decide, ⟨_, rfl⟩, by decide⟩, _, rfl, by decide⟩

theorem witness_ChannelWindowsPartition :
    windowReg 15 (3 : Fin 4).val = windowReg 15 (3 : Fin 4).val ∧
    6 ≤ (0x45 : RegNum).toNat ∧ (0x45 : RegNum).toNat ≤ 69 := by decide

theorem witness_RoundIsNearest : 0 < 1 ∧ 0 < 65536 := by decide

theorem witness_PrescaleFormula : (40 ≤ 40 ∧ 40 ≤ 1000) ∧ (40 ≤ 1000 ∧ 1000 ≤ 1000) := by decide

theorem witness_PrescaleProperties : 40 ≤ 40 ∧ 40 ≤ 1000 ∧ 1000 ≤ 1000 := by decide

theorem witness_DutyToStepsConversion : (0 < 1 ∧ 0 ≤ 1) ∧ (0 < 65536 ∧ 65536 ≤ 65536) := by decide

theorem witness_DutyOperandIntegerForm :
    65536 ≤ 65536 ∧ 32768 ≤ 65536 ∧ 2 * (32768 * 4095 % 65536) = 65536 := by decide

theorem witness_StepsToDutyIsTheGap :
    (⟨4095, 4095⟩ : StepPair).on = (⟨4095, 4095⟩ : StepPair).off ∧
    (⟨0, 4095⟩ : StepPair).on.toNat < (⟨0, 4095⟩ : StepPair).off.toNat ∧
    (⟨1, 0⟩ : StepPair).off.toNat < (⟨1, 0⟩ : StepPair).on.toNat := by decide

theorem witness_DutyConversionRoundTrip : 0 < 3 ∧ 1 ≤ 3 := by decide

theorem witness_ConstructExecutes :
    (running .uninitialized 0x0000000040 0).phase = .uninitialized ∧
    (running .uninitialized 0x0000000040 0).seq = 0 ∧
    (running .uninitialized 0x0000000040 1).seq = 1 ∧
    (running .uninitialized 0x0000000040 2).seq = 2 ∧
    nextAnswer (running .uninitialized 0x0000000040 1) = .plain := by decide

theorem witness_SoftResetExecutes :
    ∀ n : Fin 3, (running .reset 0x1000000000 (BitVec.ofNat 7 n.val)).phase ≠ .uninitialized ∧
      (running .reset 0x1000000000 (BitVec.ofNat 7 n.val)).seq = BitVec.ofNat 7 n.val ∧
      nextAnswer (running .reset 0x1000000000 (BitVec.ofNat 7 n.val)) = .plain := by decide

theorem witness_SetFrequencyExecutes :
    (40 ≤ 1000 ∧ 1000 ≤ 1000) ∧
    ∀ n : Fin 5, (running .active 0x20000003E8 (BitVec.ofNat 7 n.val)).phase ≠ .uninitialized ∧
      (running .active 0x20000003E8 (BitVec.ofNat 7 n.val)).seq = BitVec.ofNat 7 n.val ∧
      nextAnswer (running .active 0x20000003E8 (BitVec.ofNat 7 n.val)) = .plain := by decide

theorem witness_WriteStepsExecutes :
    (4095 < 4096 ∧ 0 < 4096) ∧
    ∀ n : Fin 5, (running .configured 0x3F0FFF0000 (BitVec.ofNat 7 n.val)).phase ≠ .uninitialized ∧
      (running .configured 0x3F0FFF0000 (BitVec.ofNat 7 n.val)).seq = BitVec.ofNat 7 n.val ∧
      nextAnswer (running .configured 0x3F0FFF0000 (BitVec.ofNat 7 n.val)) = .plain := by decide

theorem witness_WriteDutyCycleExecutes :
    65536 ≤ 65536 ∧
    ∀ n : Fin 5, (running .configured 0x4900010000 (BitVec.ofNat 7 n.val)).phase ≠ .uninitialized ∧
      (running .configured 0x4900010000 (BitVec.ofNat 7 n.val)).seq = BitVec.ofNat 7 n.val ∧
      nextAnswer (running .configured 0x4900010000 (BitVec.ofNat 7 n.val)) = .plain := by decide

theorem witness_ReadDutyCycleExecutes :
    ∀ n : Fin 5, (running .reset 0x5F00000000 (BitVec.ofNat 7 n.val)).phase ≠ .uninitialized ∧
      (running .reset 0x5F00000000 (BitVec.ofNat 7 n.val)).seq = BitVec.ofNat 7 n.val ∧
      nextAnswer (running .reset 0x5F00000000 (BitVec.ofNat 7 n.val)) = .plain := by decide

theorem witness_ResetAllChannelsExecutes :
    (running .reset 0x6000000000 63).phase ≠ .uninitialized ∧
    ((running .reset 0x6000000000 63).seq.toNat < 64 ∧
      nextAnswer (running .reset 0x6000000000 63) = .plain) ∧
    seqChannel (running .reset 0x6000000000 63).seq = (15 : Channel).val ∧
    (running .reset 0x6000000000 64).seq = 64 := by decide

/-- A write, the last one of the longest sequence, and a read. -/
theorem witness_AnsweredTransactionAdvances :
    let s := { running .reset 0x6000000000 63 with answers := [.ok 0 .old []] }
    let r := { running .reset 0x5F00000000 3 with
      answers := [.ok 0xA5 (.byte 1) [⟨0x40, 0x44, 2⟩]] }
    (admitted .resetAllChannels s = true ∧ nextTxnOf .resetAllChannels s = some (.write 0x45 0x00) ∧
      nextAnswer s = .ok 0 .old [] ∧
      cellKey s.cfg (deviceOf .resetAllChannels s) (Txn.write 0x45 0x00).reg ≠ cellKey s.cfg 0x40 0x44) ∧
    (admitted (.readDutyCycle 15) r = true ∧ nextTxnOf (.readDutyCycle 15) r = some (.read 0x45) ∧
      nextAnswer r = .ok 0xA5 (.byte 1) [⟨0x40, 0x44, 2⟩] ∧
      cellKey r.cfg (deviceOf (.readDutyCycle 15) r) (Txn.read 0x45).reg ≠ cellKey r.cfg 0x40 0x43 ∧
      ∀ c ∈ (Txn.read 0x45).sideEffects [⟨0x40, 0x44, 2⟩],
        cellKey r.cfg c.dev c.reg ≠ cellKey r.cfg 0x40 0x43) := by decide

theorem witness_FailedTransactionEndsTheCommand :
    let s := { running .uninitialized 0x0000000041 1 with answers := [.err (.byte 9) []] }
    admitted (.construct 0x41) s = true ∧ nextTxnOf (.construct 0x41) s = some (.write 0x01 0x04) ∧
      nextAnswer s = .err (.byte 9) [] ∧
      cellKey s.cfg (deviceOf (.construct 0x41) s) (Txn.write 0x01 0x04).reg ≠
        cellKey s.cfg 0x41 0x00 := by decide

theorem witness_SilentBusKeepsTheBlockWaiting :
    let s := { running .uninitialized 0x0000000041 0 with answers := [.silent] }
    admitted (.construct 0x41) s = true ∧ nextTxnOf (.construct 0x41) s = some (.write 0x00 0x00) ∧
      nextAnswer s = .silent := by decide

theorem witness_PhaseGateRefuses :
    (running .reset 0x0000000040 0).phase ≠ .uninitialized ∧
    ((∀ dev, Instr.softReset ≠ .construct dev) ∧
      (running .uninitialized 0x1000000000 0).phase = .uninitialized) ∧
    ∃ t, exec .softReset (running .uninitialized 0x1000000000 0) = .next t ∧
      t.responses = (running .uninitialized 0x1000000000 0).responses ++ [0x9000] :=
  ⟨by decide, ⟨nofun, rfl⟩, _, rfl, by decide⟩

theorem witness_InvalidFrequencyIsRejected :
    ((running .reset 0x2000000027 0).phase ≠ .uninitialized ∧ ((39 : Int) < 40 ∨ (1000 : Int) < 39)) ∧
    ((1001 : Int) < 40 ∨ (1000 : Int) < 1001) ∧
    ∃ t, exec (.setFrequency 39) (running .reset 0x2000000027 0) = .next t ∧
      t.responses = (running .reset 0x2000000027 0).responses ++ [0x3000] :=
  ⟨by decide, by decide, _, rfl, by decide⟩

theorem witness_InvalidStepRangeIsRejected :
    ((running .reset 0x3010000000 0).phase ≠ .uninitialized ∧
      ¬(((0 : Int) ≤ 4096 ∧ (4096 : Int) < 4096) ∧ ((0 : Int) ≤ 0 ∧ (0 : Int) < 4096))) ∧
    ¬(((0 : Int) ≤ 0 ∧ (0 : Int) < 4096) ∧ ((0 : Int) ≤ -1 ∧ (-1 : Int) < 4096)) ∧
    ∃ t, exec (.writeSteps 0 4096 0) (running .reset 0x3010000000 0) = .next t ∧
      t.responses = (running .reset 0x3010000000 0).responses ++ [0x4000] :=
  ⟨by decide, by decide, _, rfl, by decide⟩

theorem witness_InvalidDutyCycleIsRejected :
    ((running .reset 0x4000010001 0).phase ≠ .uninitialized ∧
      ((65537 : Int) < 0 ∨ (65536 : Int) < 65537)) ∧
    ((-1 : Int) < 0 ∨ (65536 : Int) < -1) ∧
    ∃ t, exec (.writeDutyCycle 0 65537) (running .reset 0x4000010001 0) = .next t ∧
      t.responses = (running .reset 0x4000010001 0).responses ++ [0x5000] :=
  ⟨by decide, by decide, _, rfl, by decide⟩

theorem witness_ValidationPrecedesEveryEffect :
    (∃ t, blockStep (running .reset 0x3010000000 0) = .next t ∧ t.responses = [] ++ [0x4000] ∧
      (rspStatus 0x4000).toNat ∈ [3, 4, 5, 8, 9] ∧
      sequencerOk (running .reset 0x3010000000 0) = true) ∧
    (∃ t, blockStep (running .reset 0x7000000000 0) = .next t ∧ t.responses = [] ++ [0x8000] ∧
      (rspStatus 0x8000).toNat ∈ [3, 4, 5, 8, 9]) :=
  ⟨⟨_, rfl, by decide, by decide, by decide⟩, _, rfl, by decide, by decide⟩

theorem witness_StatusMatrix : ∃ t, exec .softReset (running .reset 0x1000000000 0) = .next t :=
  ⟨_, rfl⟩

/-- The three clauses: an OK end, a step that is not one, a refused cell. -/
theorem witness_PhaseTransitions :
    (∃ t, exec .softReset (running .uninitialized 0x1000000000 0) = .next t ∧
      gateOpen .softReset (running .uninitialized 0x1000000000 0).phase = false) ∧
    (∃ t, exec (.setFrequency 60) (running .active 0x200000003C 4) = .next t ∧
      ∃ r, t.responses = (running .active 0x200000003C 4).responses ++ [rspWord .ok r]) ∧
    (∃ t, exec (.setFrequency 60) (running .active 0x200000003C 0) = .next t ∧
      ∀ r, t.responses ≠ (running .active 0x200000003C 0).responses ++ [rspWord .ok r]) :=
  ⟨⟨_, rfl, rfl⟩, ⟨_, rfl, 0, by decide⟩, _, rfl, nofun⟩

theorem witness_CommandsFrameTheBlock :
    ∃ t, exec (.construct 0x41) (running .uninitialized 0x0000000041 0) = .next t := ⟨_, rfl⟩

/-- The three clauses, the first two each with a register apart from what the transaction reaches. -/
theorem witness_CommandsFrameTheTargets :
    (let s := { running .reset 0x5F00000000 0 with answers := [.ok 1 .old [⟨0x40, 0x43, 2⟩]] };
      ∃ t, exec (.readDutyCycle 15) s = .next t ∧
        ∀ x, nextTxnOf (.readDutyCycle 15) s = some x →
          cellKey s.cfg (deviceOf (.readDutyCycle 15) s) x.reg ≠ cellKey s.cfg 0x40 0x45 ∧
          ∀ c ∈ x.sideEffects (nextAnswer s).also,
            cellKey s.cfg c.dev c.reg ≠ cellKey s.cfg 0x40 0x45) ∧
    (let s := running .reset 0x1000000000 0;
      (∀ ch, Instr.softReset ≠ .readDutyCycle ch) ∧ ∃ t, exec .softReset s = .next t ∧
        ∀ x, nextTxnOf .softReset s = some x →
          cellKey s.cfg (deviceOf .softReset s) x.reg ≠ cellKey s.cfg 0x40 0x45) ∧
    (nextAnswer (running .reset 0x5F00000000 0) = .plain ∧
      ∃ t, exec (.readDutyCycle 15) (running .reset 0x5F00000000 0) = .next t) := by
  refine ⟨⟨_, rfl, ?_⟩, ⟨nofun, _, rfl, ?_⟩, rfl, _, rfl⟩
  · intro x hx
    have h : some (Txn.read 0x42) = some x := hx
    cases h
    decide
  · intro x hx
    have h : some (Txn.write 0x00 0x00) = some x := hx
    cases h
    decide

theorem witness_RegistersChangeOnlyByTransactions :
    ∃ t, step (running .reset 0x1000000000 0) = .next t ∧
      ∀ recs, t.trace = (running .reset 0x1000000000 0).trace ++ recs →
        ∀ x ∈ recs,
          cellKey Config.default x.dev x.txn.reg ≠ cellKey Config.default 0x40 0xFE ∧
          ∀ c ∈ x.txn.sideEffects (comingChanges (running .reset 0x1000000000 0)),
            cellKey Config.default c.dev c.reg ≠ cellKey Config.default 0x40 0xFE := by
  refine ⟨_, rfl, ?_⟩
  intro recs h x hx
  have hr : [made (.write 0x00 0x00) .ok] = recs := h
  subst hr
  cases hx with
  | head => decide
  | tail _ h => cases h

theorem witness_OneResponseEndsACommand :
    ∃ t, step (running .reset 0x1000000000 2) = .next t := ⟨_, rfl⟩

theorem witness_ParametersAndDeviceAddressStay :
    (∃ t, step (running .uninitialized 0x0000000041 0) = .next t ∧
      t.devAddr ≠ (running .uninitialized 0x0000000041 0).devAddr) ∧
    (∃ t, step { idle .reset [] with agenda := [.reset .betweenTransactions] } = .next t ∧
      t.devAddr ≠ (idle .reset []).devAddr) :=
  ⟨⟨_, rfl, by decide⟩, _, rfl, by decide⟩

theorem witness_BlockAddressesOnlyItsRegisters :
    ∃ t, step (running .reset 0x6000000000 63) = .next t ∧
      made (.write 0x45 0x00) .ok ∈ t.trace := ⟨_, rfl, by decide⟩

/-- A state about to write PRESCALE. -/
theorem witness_EveryStepKeepsTheInvariant :
    let s := { running .reset 0x200000003C 1 with
      trace := [made (.write 0x00 0x10) .ok], mem := [(64 * 256, 0x10)] }
    s.Inv ∧ ∃ t, step s = .next t :=
  ⟨⟨by decide, by decide, by decide, by decide, by decide⟩, _, rfl⟩

/-- A run that has written PRESCALE: construct, then set_frequency 60 up to its second transaction. -/
theorem witness_PrescaleFollowsTheBlocksOwnSleepWrite :
    ∃ t, runSteps 7 { State.reset with cmdIn := [0x0000000040, 0x200000003C] } = .next t ∧
      t.trace.length = 4 := ⟨_, rfl, by decide⟩

/-- The step, inside a `construct`; the run, with another master beside it. -/
theorem witness_ConstructTransactsFirst :
    (let s := { running .uninitialized 0x0000000040 1 with trace := [made (.write 0x00 0x00) .ok] };
      s.ConstructFirst ∧ (∀ tm, nextEvent s ≠ .reset tm) ∧ ∃ t, step s = .next t) ∧
    (let agenda : List Event := [.blockMove, .otherMaster 0x40 (.read 0x06)];
      (∀ e ∈ agenda, ∀ tm, e ≠ .reset tm) ∧
      ∃ t, runSteps 4 { State.reset with cmdIn := [0x0000000040], agenda := agenda } = .next t ∧
        (blockTrace t).length = 2) := by
  refine ⟨⟨⟨by decide, by decide⟩, nofun, _, rfl⟩, ?_, _, rfl, by decide⟩
  intro e he tm
  fin_cases he <;> nofun

/-- The step: the end of a `set_frequency`, whose phase rule depends on the phase it finds. -/
theorem witness_LaterPhasesAreIndistinguishable :
    (running .active 0x200000003C 4).phase ≠ .uninitialized ∧
    (∃ t, step (running .active 0x200000003C 4) = .next t) ∧
    Phase.reset ≠ .uninitialized ∧ Phase.active ≠ .uninitialized :=
  ⟨by decide, ⟨_, rfl⟩, by decide, by decide⟩

theorem witness_AdmittedCommandRunsToCompletion :
    let s := { idle .configured [0x3F0FFF0000, 7] with answers := [.plain, .ok 0 (.byte 3) []] }
    (Instr.writeSteps 15 4095 0).wellFormed = true ∧ admitted (.writeSteps 15 4095 0) s = true ∧
      s.busy = false ∧ s.undisturbed ∧ s.okBus ∧
      s.cmdIn = encode (.writeSteps 15 4095 0) :: [7] := by
  refine ⟨by decide, by decide, rfl, rfl, ?_, by decide⟩
  unfold State.okBus
  decide

/-- The last transaction of the longest sequence fails; the first one fails. -/
theorem witness_FailedCommandIsAPrefixOfItsSequence :
    (let oks := BusAnswer.ok 0 (.byte 5) [] :: List.replicate 62 .plain;
      let s := { idle .reset [0x6000000000] with answers := oks ++ .err .old [] :: [.silent] };
      Instr.resetAllChannels.wellFormed = true ∧ admitted .resetAllChannels s = true ∧
        s.busy = false ∧ s.undisturbed ∧ s.cmdIn = encode .resetAllChannels :: [] ∧
        63 < sequenceLength .resetAllChannels ∧ oks.length = 63 ∧ (∀ a ∈ oks, a.isOk = true) ∧
        s.answers = oks ++ .err .old [] :: [.silent]) ∧
    (let also : List TargetChange := [⟨0x40, 0x07, 1⟩];
      let s := { idle .reset [0x5000000000] with answers := .err .new also :: [] };
      (Instr.readDutyCycle 0).wellFormed = true ∧ admitted (.readDutyCycle 0) s = true ∧
        s.busy = false ∧ s.undisturbed ∧ s.cmdIn = encode (.readDutyCycle 0) :: [] ∧
        0 < sequenceLength (.readDutyCycle 0) ∧ ([] : List BusAnswer).length = 0 ∧
        s.answers = [] ++ .err .new also :: []) :=
  ⟨⟨rfl, by decide, rfl, rfl, by decide, by decide, rfl, by decide, rfl⟩,
    rfl, by decide, rfl, rfl, by decide, by decide, rfl, rfl⟩

theorem witness_EveryCommandEnds :
    let s := { running .reset 0x6000000000 5 with answers := [.ok 1 .old [], .err .new []] }
    s.busy = true ∧ s.undisturbed ∧ s.busAnswers := by
  refine ⟨rfl, rfl, ?_⟩
  unfold State.busAnswers
  decide

theorem witness_RunningChannelWriteLeavesATornWindow :
    let s := idle .configured [0x330BB803E8]
    3000 < 4096 ∧ 1000 < 4096 ∧ s.phase ≠ .uninitialized ∧ s.busy = false ∧ s.undisturbed ∧
      s.plainBus ∧ s.cmdIn = encode (.writeSteps 3 (3000 : Nat) (1000 : Nat)) :: [] ∧ 4 ≤ 4 ∧
      ∀ j : Fin 4, cellKey s.cfg s.devAddr (windowReg 3 j.val) ≠ cellKey s.cfg 0x40 0x16 :=
  ⟨by decide, by decide, by decide, rfl, rfl, nofun, by decide, by decide, by decide⟩

theorem witness_DutyCycleReadsBack :
    let s := idle .configured [0x4900010000, 0x5900000000]
    65536 ≤ 65536 ∧ s.phase ≠ .uninitialized ∧ s.busy = false ∧ s.undisturbed ∧ s.plainBus ∧
      s.cmdIn = encode (.writeDutyCycle 9 (65536 : Nat)) :: encode (.readDutyCycle 9) :: [] :=
  ⟨by decide, by decide, rfl, rfl, nofun, by decide⟩

theorem witness_ResetAllChannelsClearsEveryWindow :
    let s := idle .active [0x6000000000]
    s.phase ≠ .uninitialized ∧ s.busy = false ∧ s.undisturbed ∧ s.plainBus ∧
      s.cmdIn = encode .resetAllChannels :: [] ∧
      (6 ≤ (0x45 : RegNum).toNat ∧ (0x45 : RegNum).toNat ≤ 69) ∧
      ∀ r : RegNum, 6 ≤ r.toNat → r.toNat ≤ 69 →
        cellKey s.cfg s.devAddr r ≠ cellKey s.cfg 0x40 0x46 :=
  ⟨by decide, rfl, rfl, nofun, by decide, by decide, fun r _ hr h => by
    have := congrArg BitVec.toNat (Laws.cellKey_inj_reg h)
    simp at this
    omega⟩

/-- Each of the four transactions fails. -/
theorem witness_FailedSetFrequencyLeavesAPartialMode : ∀ k : Fin 4,
    let s := { idle .active [0x20000000C8] with
      answers := List.replicate k.val BusAnswer.plain ++ BusAnswer.err .new [] :: [] }
    40 ≤ 200 ∧ 200 ≤ 1000 ∧ s.phase ≠ .uninitialized ∧ s.busy = false ∧ s.undisturbed ∧
      s.cfg.wf = true ∧ s.cmdIn = encode (.setFrequency (200 : Nat)) :: [] ∧
      s.answers = List.replicate k.val BusAnswer.plain ++ BusAnswer.err .new [] :: [] ∧
      (0x1E : Byte) = BitVec.ofNat 8 ((50000000 + 4096 * 200) / (8192 * 200) - 1) :=
  fun _ => ⟨by decide, by decide, nofun, rfl, rfl, (by decide : Config.default.wf = true),
    (by decide : [0x20000000C8] = encode (.setFrequency (200 : Nat)) :: []), rfl, by decide⟩

end Sys2Proof.Tests
end

namespace Sys2Proof.Proofs

open Sys2Proof.Machine

/-- On the block's turn the step is the block's own move, the agenda's entry used up. -/
theorem step_of_blockMove {s : State} (he : nextEvent s = .blockMove) :
    step s = blockStep (popAgenda s) := by
  rw [step, he, agentStep]

/-- A busy block whose word is legal does the next step of the command it decodes to (R160). -/
theorem blockStep_of_decode {s : State} {i : Instr} (hb : s.busy = true)
    (hd : decode s.cmd = .ok i) : blockStep s = exec i s := by
  simp [blockStep, fetch, hb, hd]

/-- Settles O8: on the block's turn the step is the block's move, and a busy block's move is `exec` of the
decoded command; using up an agenda entry changes neither blk.busy nor blk.cmd. -/
theorem stepRunsTheDecodedCommand : Obligations.StepRunsTheDecodedCommand := by
  intro s i hb he hd
  calc step s = blockStep (popAgenda s) := step_of_blockMove he
    _ = exec i (popAgenda s) :=
      blockStep_of_decode ((Laws.popAgenda_busy s).trans hb) (by rwa [Laws.popAgenda_cmd])

end Sys2Proof.Proofs

namespace Sys2Proof.Proofs

open Sys2Proof.Machine Sys2Proof.Laws

/-! ### What one step of a command, and one move of an agent, can do -/

/-- The ways one step of the command `i` can go from `s`, as R160, R212 and R24 order them. -/
inductive CommandStep (i : Instr) (s : State) : State → Prop
  | refused (hg : gateOpen i s.phase = false) : CommandStep i s (raise .notPermitted s)
  | rejected (hg : gateOpen i s.phase = true) {st : Status}
      (he : (planOf s.cfg i).operandError = some st) : CommandStep i s (raise st (entered i s))
  | done (ha : admitted i s = true) {x : Txn} (hx : (planOf s.cfg i).txns[s.seq.toNat]? = some x)
      (b : Byte) (r : Residue) (also : List TargetChange) :
      CommandStep i s (answerOk x b r also (entered i s))
  | failed (ha : admitted i s = true) {x : Txn} (hx : (planOf s.cfg i).txns[s.seq.toNat]? = some x)
      (r : Residue) (also : List TargetChange) :
      CommandStep i s (answerErr x r also (planOf s.cfg i).busError (entered i s))
  | waiting (ha : admitted i s = true) : CommandStep i s (entered i s)
  | finished (ha : admitted i s = true) (hx : (planOf s.cfg i).txns[s.seq.toNat]? = none) :
      CommandStep i s (finishOf i (entered i s))

theorem exec_commandStep {i : Instr} {s t : State} (h : exec i s = .next t) :
    CommandStep i s t := by
  obtain ⟨hg, rfl⟩ | ⟨hg, st, he, rfl⟩ | ⟨ha, x, hx, rfl⟩ | ⟨ha, hx, rfl⟩ := exec_cases h
  · exact .refused hg
  · exact .rejected hg he
  · obtain ⟨b, r, also, ht, -⟩ | ⟨r, also, -, ht⟩ | ⟨-, ht⟩ :=
      transact_cases x (planOf s.cfg i).busError (entered i s) <;> rw [ht]
    · exact .done ha hx b r also
    · exact .failed ha hx r also
    · exact .waiting ha
  · exact .finished ha hx

/-- The ways the move of the agent `e` can go from `s` (R8). -/
inductive Move (s : State) : Event → State → Prop
  | idle (hb : s.busy = false) : Move s .blockMove s
  | accepted (hb : s.busy = false) (w : CmdWord) (rest : List CmdWord) :
      Move s .blockMove (accept w rest s)
  | illegal (hb : s.busy = true) : Move s .blockMove (raise .illegalCommand s)
  | command (hb : s.busy = true) {i : Instr} {t : State} (hd : decode s.cmd = .ok i)
      (hc : CommandStep i s t) : Move s .blockMove t
  | other (d : DevAddr) (x : Txn) : Move s (.otherMaster d x) (otherMove d x s)
  | reset (tm : ResetTiming) : Move s (.reset tm) (resetInput tm s)

theorem blockStep_move {s t : State} (h : blockStep s = .next t) : Move s .blockMove t := by
  obtain ⟨hb, -, rfl⟩ | ⟨hb, w, rest, -, rfl⟩ | ⟨hb, -, rfl⟩ | ⟨hb, i, hd, he⟩ := blockStep_cases h
  · exact .idle hb
  · exact .accepted hb w rest
  · exact .illegal hb
  · exact .command hb hd (exec_commandStep he)

theorem step_move {s t : State} (h : step s = .next t) : Move (popAgenda s) (nextEvent s) t := by
  obtain ⟨he, hb⟩ | ⟨d, x, he, rfl⟩ | ⟨tm, he, rfl⟩ := step_cases h <;> rw [he]
  · exact blockStep_move hb
  · exact .other d x
  · exact .reset tm

/-! ### The device address, the phase and the gate -/

theorem deviceOf_cases (i : Instr) (s : State) :
    deviceOf i s = s.devAddr ∨ ∃ dev, i = .construct dev ∧ deviceOf i s = dev := by
  cases i with
  | construct dev => exact .inr ⟨dev, rfl, rfl⟩
  | _ => exact .inl rfl

theorem deviceOf_of_devAddr {i : Instr} {s t : State} (h : t.devAddr = deviceOf i s) :
    deviceOf i t = t.devAddr := by
  cases i with
  | construct dev => exact h.symm
  | _ => rfl

theorem gateOpen_construct_iff (dev : DevAddr) (p : Phase) :
    gateOpen (.construct dev) p = true ↔ p = .uninitialized := decide_eq_true_iff

theorem gateOpen_of_admitted {i : Instr} {s : State} (h : admitted i s = true) :
    gateOpen i s.phase = true := by
  rw [admitted, Bool.and_eq_true] at h
  exact h.1

/-- Whether a command is admitted depends on the phase and the parameters alone. -/
theorem admitted_congr (i : Instr) {s t : State} (hp : t.phase = s.phase) (hc : t.cfg = s.cfg) :
    admitted i t = admitted i s := by
  simp only [admitted, hp, hc]

/-- The OK end of a command past its gate puts the block in the phase of the table (R217). -/
theorem finishOf_phase {i : Instr} {s : State} (h : gateOpen i s.phase = true) :
    (finishOf i s).phase = phaseAfterOk i s.phase := by
  cases i with
  | construct dev =>
    rw [(gateOpen_construct_iff dev s.phase).mp h]
    rfl
  | softReset | readDutyCycle => rfl
  | setFrequency hz =>
    cases hp : s.phase with
    | uninitialized => simp [gateOpen, hp] at h
    | _ => rfl
  | writeSteps | writeDutyCycle | resetAllChannels =>
    rw [finishOf, finishChannelWrite, respond_phase, setPhase_phase]
    cases s.phase <;> rfl

/-! ### The read buffer -/

theorem latchRead_write (reg : RegNum) (v b : Byte) (s : State) :
    latchRead (.write reg v) b s = s := rfl

/-- Only `read_duty_cycle` reads (R131 to R134). -/
theorem txn_isWrite {cfg : Config} {i : Instr} {x : Txn} (hi : ∀ ch, i ≠ .readDutyCycle ch)
    (hx : x ∈ (planOf cfg i).txns) : ∃ reg v, x = .write reg v := by
  obtain ⟨v, rfl⟩ | ⟨v, rfl⟩ | ⟨-, v, rfl⟩ | ⟨ch, k, -, v, rfl⟩ | ⟨ch, -, rfl, -⟩ := txn_kinds hx
  · exact ⟨_, v, rfl⟩
  · exact ⟨_, v, rfl⟩
  · exact ⟨_, v, rfl⟩
  · exact ⟨_, v, rfl⟩
  · exact absurd rfl (hi ch)

/-! ### What each field is after a step of a command -/

namespace CommandStep

variable {i : Instr} {s t : State}

theorem cfg (h : CommandStep i s t) : t.cfg = s.cfg := by cases h <;> simp

theorem cmd (h : CommandStep i s t) : t.cmd = s.cmd := by cases h <;> simp

theorem cmdIn (h : CommandStep i s t) : t.cmdIn = s.cmdIn := by cases h <;> simp

theorem agenda (h : CommandStep i s t) : t.agenda = s.agenda := by cases h <;> simp

theorem seq (h : CommandStep i s t) : t.seq = s.seq ∨ t.seq = s.seq + 1 := by cases h <;> simp

/-- Past its gate a command puts the device its transactions carry into blk.dev_addr. -/
theorem devAddr (h : CommandStep i s t) :
    t.devAddr = s.devAddr ∨ gateOpen i s.phase = true ∧ t.devAddr = deviceOf i s := by
  cases h with
  | refused hg => exact .inl (raise_devAddr s _)
  | rejected hg he => exact .inr ⟨hg, by simp⟩
  | done ha hx b r also => exact .inr ⟨gateOpen_of_admitted ha, by simp⟩
  | failed ha hx r also => exact .inr ⟨gateOpen_of_admitted ha, by simp⟩
  | waiting ha => exact .inr ⟨gateOpen_of_admitted ha, by simp⟩
  | finished ha hx => exact .inr ⟨gateOpen_of_admitted ha, by simp⟩

/-- Only `construct` changes blk.dev_addr, in Uninitialized and to its operand (R21, R161). -/
theorem devAddr_cases (h : CommandStep i s t) :
    t.devAddr = s.devAddr ∨
      ∃ dev, i = .construct dev ∧ s.phase = .uninitialized ∧ t.devAddr = dev := by
  obtain ht | ⟨hg, ht⟩ := h.devAddr
  · exact .inl ht
  · obtain hd | ⟨dev, rfl, hd⟩ := deviceOf_cases i s
    · exact .inl (ht.trans hd)
    · exact .inr ⟨dev, rfl, (gateOpen_construct_iff dev s.phase).mp hg, ht.trans hd⟩

/-- Only a transaction that reads fills the read buffer (R134). -/
theorem rd (h : CommandStep i s t) (hi : ∀ ch, i ≠ .readDutyCycle ch) : t.rd = s.rd := by
  cases h with
  | done ha hx b r also =>
    obtain ⟨reg, v, rfl⟩ := txn_isWrite hi (List.mem_of_getElem? hx)
    simp [answerOk, latchRead_write]
  | _ => simp

/-- Only the OK end of a command sets blk.phase, as the table of R217 says. -/
theorem phase (h : CommandStep i s t) : t.phase = s.phase ∨ t.phase = phaseAfterOk i s.phase := by
  cases h with
  | finished ha hx => exact .inr (finishOf_phase (s := entered i s) (gateOpen_of_admitted ha))
  | _ => exact .inl (by simp)

/-- A busy block goes on, without a response, or ends its command with one response (R24). -/
theorem response (h : CommandStep i s t) :
    t.responses = s.responses ∧ t.busy = s.busy ∨
      (∃ w, t.responses = s.responses ++ [w]) ∧ t.busy = false := by
  cases h with
  | done ha hx b r also => exact .inl (by simp)
  | waiting ha => exact .inl (by simp)
  | finished ha hx => exact .inr ⟨by cases i <;> exact ⟨_, rfl⟩, finishOf_busy i _⟩
  | _ => exact .inr (by simp)

end CommandStep

/-- Settles O42: the frame of each field, over the ways one step of a command can go. -/
theorem commandsFrameTheBlock : Obligations.CommandsFrameTheBlock := by
  intro i s t he
  have h := exec_commandStep he
  refine ⟨h.cfg, h.cmd, h.cmdIn, h.agenda, fun hi => ?_, ?_, h.rd, ?_, ?_, h.seq⟩
  · obtain ht | ⟨dev, rfl, -⟩ := h.devAddr_cases
    · exact ht
    · exact absurd rfl (hi dev)
  · rintro dev rfl
    exact h.devAddr.imp_right And.right
  · rintro rfl
    exact h.phase.elim id id
  · rintro ch rfl
    exact h.phase.elim id id

/-! ### The reset input -/

section ResetInput

variable (tm : ResetTiming) (l : Bool) (s : State)

@[simp] theorem abandonTxn_cfg : (abandonTxn l s).cfg = s.cfg := by
  obtain ⟨-, h⟩ | ⟨d, x, r, -, -, -, h⟩ := abandonTxn_cases l s <;> simp [h]

@[simp] theorem abandonTxn_responses : (abandonTxn l s).responses = s.responses := by
  obtain ⟨-, h⟩ | ⟨d, x, r, -, -, -, h⟩ := abandonTxn_cases l s <;> simp [h]

@[simp] theorem resetInput_cfg : (resetInput tm s).cfg = s.cfg := by
  cases tm <;> simp [resetInput]

@[simp] theorem resetInput_responses : (resetInput tm s).responses = s.responses := by
  cases tm <;> simp [resetInput]

@[simp] theorem resetInput_busy : (resetInput tm s).busy = false := by
  cases tm <;> simp [resetInput]

end ResetInput

/-! ### What each field is after a move -/

namespace Move

variable {s t : State} {e : Event}

theorem cfg (h : Move s e t) : t.cfg = s.cfg := by
  cases h with
  | command hb hd hc => exact hc.cfg
  | _ => simp

/-- A response ends the command that a busy block executes; without one only the reset input makes it
idle (R24, R212, R257). -/
theorem response (h : Move s e t) :
    (t.responses = s.responses ∧ (s.busy = true → t.busy = false → ∃ tm, e = .reset tm)) ∨
    (∃ w, t.responses = s.responses ++ [w] ∧ s.busy = true ∧ t.busy = false) := by
  cases h with
  | idle hb => exact .inl ⟨rfl, fun ht => by simp [hb] at ht⟩
  | accepted hb w rest => exact .inl ⟨rfl, fun ht => by simp [hb] at ht⟩
  | illegal hb => exact .inr ⟨_, rfl, hb, rfl⟩
  | command hb hd hc =>
    obtain ⟨hr, ht⟩ | ⟨⟨w, hw⟩, ht⟩ := hc.response
    · exact .inl ⟨hr, fun _ hf => by simp [ht, hb] at hf⟩
    · exact .inr ⟨w, hw, hb, ht⟩
  | other d x => exact .inl ⟨otherMove_responses s d x, fun ht hf => by simp [ht] at hf⟩
  | reset tm => exact .inl ⟨resetInput_responses tm s, fun _ _ => ⟨tm, rfl⟩⟩

/-- blk.dev_addr changes only by `construct` in Uninitialized, to its operand, and by the reset input
(R21, R240). -/
theorem devAddr (h : Move s e t) :
    t.devAddr = s.devAddr ∨
    (∃ dev, s.busy = true ∧ decode s.cmd = .ok (.construct dev) ∧ s.phase = .uninitialized ∧
      t.devAddr = dev) ∨
    (∃ tm, e = .reset tm) := by
  cases h with
  | command hb hd hc =>
    obtain ht | ⟨dev, rfl, hp, ht⟩ := hc.devAddr_cases
    · exact .inl ht
    · exact .inr (.inl ⟨dev, hb, hd, hp, ht⟩)
  | reset tm => exact .inr (.inr ⟨tm, rfl⟩)
  | _ => exact .inl (by simp)

end Move

/-- Settles O45: over the moves of the three agents (`Move.response`). -/
theorem oneResponseEndsACommand : Obligations.OneResponseEndsACommand :=
  fun _ _ h => (step_move h).response

/-- Settles O46: over the moves of the three agents (`Move.cfg`, `Move.devAddr`). -/
theorem parametersAndDeviceAddressStay : Obligations.ParametersAndDeviceAddressStay :=
  ⟨fun _ _ h => (step_move h).cfg, fun _ _ h hne => (step_move h).devAddr.resolve_left hne⟩

end Sys2Proof.Proofs

namespace Sys2Proof.Proofs

open Sys2Proof.Machine Sys2Proof.Laws

/-! ### The transaction a running command makes next -/

theorem pendingTxn_of_command {i : Instr} {s : State} {x : Txn} (hb : s.busy = true)
    (hd : decode s.cmd = .ok i) (ha : admitted i s = true)
    (hx : (planOf s.cfg i).txns[s.seq.toNat]? = some x) :
    pendingTxn s = some (deviceOf i s, x) := by
  simp [pendingTxn, fetch, nextTxnOf, hb, hd, ha, hx]

theorem pendingTxn_cases {s : State} {d : DevAddr} {x : Txn} (h : pendingTxn s = some (d, x)) :
    ∃ i, s.busy = true ∧ decode s.cmd = .ok i ∧ (planOf s.cfg i).txns[s.seq.toNat]? = some x ∧
      d = deviceOf i s := by
  unfold pendingTxn fetch nextTxnOf at h
  split at h
  · split at h
    · split at h
      · obtain ⟨y, hy, hp⟩ := Option.map_eq_some_iff.mp h
        cases hp
        exact ⟨_, ‹_›, ‹_›, hy, rfl⟩
      · cases h
    · cases h
  · cases h

/-- Every transaction of a plan addresses one of the block's registers (R55). -/
theorem emittable_of_mem_txns {cfg : Config} {i : Instr} {x : Txn}
    (hx : x ∈ (planOf cfg i).txns) : emittable x = true := by
  obtain ⟨v, rfl⟩ | ⟨v, rfl⟩ | ⟨-, v, rfl⟩ | ⟨ch, k, hk, v, rfl⟩ | ⟨ch, k, -, hk, rfl⟩ :=
    txn_kinds hx
  · rfl
  · rfl
  · rfl
  all_goals
    have := ch.isLt
    simp only [emittable, window_toNat ch hk, Bool.or_eq_true, Bool.and_eq_true, decide_eq_true_eq]
    omega

/-- PRESCALE is no register of a channel window. -/
theorem window_ne_prescale (ch : Channel) {k : Nat} (hk : k < 4) :
    channelBase ch + BitVec.ofNat 8 k ≠ Config.regPrescale := by
  intro h
  have hn := congrArg BitVec.toNat h
  rw [window_toNat ch hk, show Config.regPrescale.toNat = 254 from rfl] at hn
  omega

/-- PRESCALE is addressed by `set_frequency` alone, as its transaction 1 (R132). -/
theorem prescale_txn {cfg : Config} {i : Instr} {n : Nat} {x : Txn}
    (hx : (planOf cfg i).txns[n]? = some x) (hr : x.reg = Config.regPrescale) :
    ∃ hz, i = .setFrequency hz ∧ n = 1 := by
  obtain ⟨v, rfl⟩ | ⟨v, rfl⟩ | ⟨⟨hz, rfl⟩, -⟩ | ⟨ch, k, hk, v, rfl⟩ | ⟨ch, k, -, hk, rfl⟩ :=
    txn_kinds (List.mem_of_getElem? hx)
  · exact absurd hr (by decide : (0x00 : RegNum) ≠ Config.regPrescale)
  · exact absurd hr (by decide : (0x01 : RegNum) ≠ Config.regPrescale)
  · refine ⟨hz, rfl, ?_⟩
    match n, hx with
    | 1, _ => rfl
    | 0, hx | 2, hx | 3, hx => cases hx; cases hr
  · exact absurd hr (window_ne_prescale ch hk)
  · exact absurd hr (window_ne_prescale ch hk)

/-- While a command has a transaction to make, blk.seq counts up without wrapping (R24). -/
theorem seq_succ_toNat {cfg : Config} {i : Instr} {n : BitVec 7} {x : Txn}
    (hx : (planOf cfg i).txns[n.toNat]? = some x) :
    (n + 1).toNat = n.toNat + 1 ∧ n.toNat < sequenceLength i := by
  obtain ⟨hn, -⟩ := List.getElem?_eq_some_iff.mp hx
  rw [length_txns] at hn
  have := sequenceLength_le i
  exact ⟨by simp; omega, hn⟩

/-! ### The trace after a move -/

/-- A move leaves the trace, or appends a transaction of another master, or the one the block's running
command makes next (R51). -/
theorem Move.trace_cases {s t : State} {e : Event} (h : Move s e t) :
    t.trace = s.trace ∨ (∃ d x o, t.trace = s.trace ++ [⟨.other, d, x, o⟩]) ∨
    (∃ d x o, pendingTxn s = some (d, x) ∧ t.trace = s.trace ++ [⟨.block, d, x, o⟩]) := by
  cases h with
  | command hb hd hc =>
    cases hc with
    | done ha hx b r also =>
      exact .inr (.inr ⟨_, _, _, pendingTxn_of_command hb hd ha hx, answerOk_trace ..⟩)
    | failed ha hx r also =>
      exact .inr (.inr ⟨_, _, _, pendingTxn_of_command hb hd ha hx, answerErr_trace ..⟩)
    | _ => exact .inl (by simp)
  | other d x =>
    obtain ⟨b, r, also, ht, -⟩ | ⟨r, also, -, ht⟩ | ⟨-, ht⟩ := otherMove_cases d x s <;> rw [ht]
    · exact .inr (.inl ⟨d, x, _, rfl⟩)
    · exact .inr (.inl ⟨d, x, _, rfl⟩)
    · exact .inl rfl
  | reset tm =>
    cases tm with
    | betweenTransactions => exact .inl rfl
    | duringTransaction l =>
      rw [resetInput, resetBlock_trace]
      obtain ⟨-, ht⟩ | ⟨d, x, r, hp, -, -, ht⟩ := abandonTxn_cases l s <;> rw [ht]
      · exact .inl rfl
      · exact .inr (.inr ⟨d, x, _, hp, rfl⟩)
  | _ => exact .inl rfl

theorem blockTrace_congr {s t : State} (h : t.trace = s.trace) : blockTrace t = blockTrace s := by
  rw [blockTrace, h, blockTrace]

theorem blockTrace_of_other {s t : State} {d : DevAddr} {x : Txn} {o : BusOutcome}
    (h : t.trace = s.trace ++ [⟨.other, d, x, o⟩]) : blockTrace t = blockTrace s := by
  rw [blockTrace, h, List.filter_append, blockTrace]
  exact List.append_nil _

theorem blockTrace_of_block {s t : State} {d : DevAddr} {x : Txn} {o : BusOutcome}
    (h : t.trace = s.trace ++ [⟨.block, d, x, o⟩]) :
    blockTrace t = blockTrace s ++ [⟨.block, d, x, o⟩] := by
  rw [blockTrace, h, List.filter_append, blockTrace]
  rfl

/-- The block's own transactions after a move: the same, or the running command's next one more. -/
theorem Move.blockTrace_cases {s t : State} {e : Event} (h : Move s e t) :
    blockTrace t = blockTrace s ∨
    (∃ d x o, pendingTxn s = some (d, x) ∧
      blockTrace t = blockTrace s ++ [⟨.block, d, x, o⟩]) := by
  obtain ht | ⟨d, x, o, ht⟩ | ⟨d, x, o, hp, ht⟩ := h.trace_cases
  · exact .inl (blockTrace_congr ht)
  · exact .inl (blockTrace_of_other ht)
  · exact .inr ⟨d, x, o, hp, blockTrace_of_block ht⟩

theorem blockTrace_otherMove (d : DevAddr) (x : Txn) (s : State) :
    blockTrace (otherMove d x s) = blockTrace s := by
  obtain ⟨b, r, also, ht, -⟩ | ⟨r, also, -, ht⟩ | ⟨-, ht⟩ := otherMove_cases d x s <;> rw [ht]
  · exact blockTrace_of_other (complete_trace ..)
  · exact blockTrace_of_other (complete_trace ..)

/-! ### The invariant, clause by clause -/

/-- Every step keeps the canonical form of the targets' cells. -/
theorem step_memory_wf {s t : State} (hm : Memory.wf s.cfg s.mem = true) (h : step s = .next t) :
    Memory.wf t.cfg t.mem = true := by
  rw [(step_move h).cfg, popAgenda_cfg]
  obtain ⟨-, -, ht⟩ | ⟨_, _, _, _, _, _, -, -, ht, -⟩ := step_bus_cases h <;> rw [ht]
  · exact hm
  · exact applyChanges_wf _ hm

/-- Every move keeps the block's transactions among its own registers (R55). -/
theorem Move.keeps_traceEmittable {s t : State} {e : Event} (h : Move s e t)
    (hs : traceEmittable s = true) : traceEmittable t = true := by
  unfold traceEmittable at hs ⊢
  obtain ht | ⟨d, x, o, ht⟩ | ⟨d, x, o, hp, ht⟩ := h.trace_cases <;> rw [ht]
  · exact hs
  · rw [List.all_append, hs]
    rfl
  · obtain ⟨i, -, -, hx, -⟩ := pendingTxn_cases hp
    rw [List.all_append, hs]
    simp [emittable_of_mem_txns (List.mem_of_getElem? hx)]

theorem sleepsFirst_concat (cfg : Config) (prev : Option BusRecord) (rs : List BusRecord)
    (r : BusRecord) :
    sleepsFirst cfg prev (rs ++ [r]) =
      (sleepsFirst cfg prev rs &&
        (r.txn.reg != Config.regPrescale || rs.getLast?.or prev == some (sleepRecord cfg r.dev))) := by
  induction rs generalizing prev with
  | nil => simp [sleepsFirst]
  | cons q rs ih => simp [sleepsFirst, ih, List.getLast?_cons, Bool.and_assoc]

theorem sleepPending_iff (s : State) :
    sleepPending s = true ↔
      ∀ hz, s.busy = true → decode s.cmd = .ok (.setFrequency hz) → s.seq.toNat = 1 →
        (blockTrace s).getLast? = some (sleepRecord s.cfg s.devAddr) := by
  unfold sleepPending
  split
  · simp [*]
  next hne => exact iff_of_true rfl fun hz hb hd hq => (hne hz hb hd hq).elim

/-- The block addresses PRESCALE only when its last transaction put that device to sleep (R132). -/
theorem slept_of_pending_prescale {s : State} {d : DevAddr} {x : Txn} (hs : sleepPending s = true)
    (hp : pendingTxn s = some (d, x)) (hr : x.reg = Config.regPrescale) :
    (blockTrace s).getLast? = some (sleepRecord s.cfg d) := by
  obtain ⟨i, hb, hd, hx, rfl⟩ := pendingTxn_cases hp
  obtain ⟨hz, rfl, hq⟩ := prescale_txn hx hr
  exact (sleepPending_iff s).mp hs hz hb hd hq

/-- Every move keeps that PRESCALE is addressed right after the write of MODE1_SLEEP (R246). -/
theorem Move.keeps_sleepsFirst {s t : State} {e : Event} (h : Move s e t) (hp : sleepPending s = true)
    (hs : sleepsFirst s.cfg none (blockTrace s) = true) :
    sleepsFirst t.cfg none (blockTrace t) = true := by
  rw [h.cfg]
  obtain ht | ⟨d, x, o, hx, ht⟩ := h.blockTrace_cases <;> rw [ht]
  · exact hs
  · rw [sleepsFirst_concat, hs, Bool.true_and, Bool.or_eq_true, bne_iff_ne, Option.or_none,
      beq_iff_eq]
    exact or_iff_not_imp_left.mpr fun hr => slept_of_pending_prescale hp hx (not_not.mp hr)

/-- A transaction done leaves `set_frequency` before PRESCALE only when it wrote MODE1_SLEEP. -/
theorem sleepPending_answerOk {i : Instr} {s : State} {x : Txn} (hd : decode s.cmd = .ok i)
    (hx : (planOf s.cfg i).txns[s.seq.toNat]? = some x) (b : Byte) (r : Residue)
    (also : List TargetChange) : sleepPending (answerOk x b r also (entered i s)) = true := by
  rw [sleepPending_iff]
  intro hz _ hd' hq
  rw [answerOk_cmd, entered_cmd, hd] at hd'
  cases hd'
  have h0 : s.seq.toNat = 0 := by
    have hn := (seq_succ_toNat hx).1
    rw [answerOk_seq, entered_seq] at hq
    omega
  rw [h0] at hx
  cases hx
  rw [blockTrace_of_block (answerOk_trace ..), List.getLast?_concat]
  simp [sleepRecord, Txn.okOutcome]

/-- Waiting for an answer changes blk.dev_addr alone, and that only for `construct`. -/
theorem sleepPending_entered {i : Instr} {s : State} (hd : decode s.cmd = .ok i)
    (hs : sleepPending s = true) : sleepPending (entered i s) = true := by
  rw [sleepPending_iff] at hs ⊢
  intro hz hb hd' hq
  cases hd.symm.trans hd'
  exact hs hz hb hd hq

theorem sleepPending_of_idle {s : State} (hb : s.busy = false) : sleepPending s = true :=
  (sleepPending_iff s).mpr fun _ hb' => by simp [hb] at hb'

/-- Every move keeps the target put to sleep by the block's last transaction while `set_frequency` is
about to write PRESCALE. -/
theorem Move.keeps_sleepPending {s t : State} {e : Event} (h : Move s e t)
    (hs : sleepPending s = true) : sleepPending t = true := by
  cases h with
  | idle hb => exact hs
  | accepted hb w rest => exact (sleepPending_iff _).mpr fun _ _ _ hq => by simp at hq
  | illegal hb => exact sleepPending_of_idle (raise_busy s _)
  | command hb hd hc =>
    cases hc with
    | done ha hx b r also => exact sleepPending_answerOk hd hx b r also
    | waiting ha => exact sleepPending_entered hd hs
    | _ => exact sleepPending_of_idle (by simp)
  | other d x =>
    rw [sleepPending_iff] at hs ⊢
    simpa [blockTrace_otherMove] using hs
  | reset tm => exact sleepPending_of_idle (resetInput_busy tm s)

/-! ### Where the sequencer is -/

theorem sequencerOk_of_idle {s : State} (hb : s.busy = false) : sequencerOk s = true := by
  simp [sequencerOk, hb]

theorem sequencerOk_of_start {s : State} (hq : s.seq = 0) : sequencerOk s = true := by
  unfold sequencerOk
  split
  · split <;> simp [hq]
  · rfl

theorem sequencerOk_iff {i : Instr} {s : State} (hb : s.busy = true) (hd : decode s.cmd = .ok i) :
    sequencerOk s = true ↔
      s.seq.toNat ≤ sequenceLength i ∧
        (s.seq = 0 ∨ admitted i s = true ∧ deviceOf i s = s.devAddr) := by
  simp [sequencerOk, hb, hd, length_txns]

theorem sequencerOk_congr {s t : State} (hb : t.busy = s.busy) (hc : t.cmd = s.cmd)
    (hq : t.seq = s.seq) (hp : t.phase = s.phase) (hg : t.cfg = s.cfg)
    (ha : t.devAddr = s.devAddr) : sequencerOk t = sequencerOk s := by
  have hdev (i : Instr) : deviceOf i t = deviceOf i s := by
    cases i with
    | construct dev => rfl
    | _ => exact ha
  simp only [sequencerOk, hb, hc, hq, hg, ha, admitted_congr _ hp hg, hdev]

/-- A command that has begun or is waiting is past its checks, its device in blk.dev_addr (R161, R212). -/
theorem CommandStep.keeps_sequencerOk {i : Instr} {s t : State} (h : CommandStep i s t)
    (hb : s.busy = true) (hd : decode s.cmd = .ok i) (hs : sequencerOk s = true) :
    sequencerOk t = true := by
  cases h with
  | done ha hx b r also =>
    obtain ⟨hn, hl⟩ := seq_succ_toNat hx
    rw [sequencerOk_iff (i := i) (by simpa using hb) (by simpa using hd), answerOk_seq, entered_seq,
      hn]
    exact ⟨hl, .inr ⟨(admitted_congr i (by simp) (by simp)).trans ha,
      deviceOf_of_devAddr (answerOk_devAddr ..)⟩⟩
  | waiting ha =>
    exact (sequencerOk_iff (s := entered i s) hb hd).mpr
      ⟨((sequencerOk_iff hb hd).mp hs).1, .inr ⟨ha, deviceOf_of_devAddr (entered_devAddr i s)⟩⟩
  | _ => exact sequencerOk_of_idle (by simp)

theorem Move.keeps_sequencerOk {s t : State} {e : Event} (h : Move s e t)
    (hs : sequencerOk s = true) : sequencerOk t = true := by
  cases h with
  | idle hb => exact hs
  | accepted hb w rest => exact sequencerOk_of_start (accept_seq s w rest)
  | illegal hb => exact sequencerOk_of_idle (raise_busy s _)
  | command hb hd hc => exact hc.keeps_sequencerOk hb hd hs
  | other d x =>
    rwa [sequencerOk_congr (otherMove_busy s d x) (otherMove_cmd s d x) (otherMove_seq s d x)
      (otherMove_phase s d x) (otherMove_cfg s d x) (otherMove_devAddr s d x)]
  | reset tm => exact sequencerOk_of_idle (resetInput_busy tm s)

/-- Settles O49: each clause is kept by every move of every agent, the last two by the sequencer's place in
its command; using up an agenda entry touches none. -/
theorem everyStepKeepsTheInvariant : Obligations.EveryStepKeepsTheInvariant := by
  rintro s t ⟨hm, hq, he, hf, hp⟩ h
  have hmove := step_move h
  exact ⟨step_memory_wf hm h, hmove.keeps_sequencerOk hq, hmove.keeps_traceEmittable he,
    hmove.keeps_sleepsFirst hp hf, hmove.keeps_sleepPending hp⟩

end Sys2Proof.Proofs

namespace Sys2Proof.Proofs

open Sys2Proof.Machine Sys2Proof.Laws

/-! ### States that differ only in the phase -/

/-- `u` is `s` but for the phase, and both or neither are in Uninitialized. -/
def PhaseTwin (s u : State) : Prop :=
  ∃ q, u = setPhase q s ∧ (s.phase = .uninitialized ↔ q = .uninitialized)

theorem PhaseTwin.refl (s : State) : PhaseTwin s s := ⟨s.phase, rfl, Iff.rfl⟩

theorem phaseTwin_setPhase {s : State} {q : Phase} (hs : s.phase ≠ .uninitialized)
    (hq : q ≠ .uninitialized) : PhaseTwin s (setPhase q s) := ⟨q, rfl, iff_of_false hs hq⟩

/-- An operation that neither reads nor writes the phase keeps twins. -/
theorem PhaseTwin.map {s u : State} {f : State → State} (h : PhaseTwin s u)
    (hf : ∀ q, f (setPhase q s) = setPhase q (f s)) (hp : (f s).phase = s.phase) :
    PhaseTwin (f s) (f u) := by
  obtain ⟨q, rfl, hq⟩ := h
  exact ⟨q, hf q, hp ▸ hq⟩

theorem latchRead_setPhase (x : Txn) (b : Byte) (q : Phase) (s : State) :
    latchRead x b (setPhase q s) = setPhase q (latchRead x b s) := by cases x <;> rfl

theorem answerOk_setPhase (x : Txn) (b : Byte) (r : Residue) (also : List TargetChange) (q : Phase)
    (s : State) : answerOk x b r also (setPhase q s) = setPhase q (answerOk x b r also s) :=
  congrArg advance (latchRead_setPhase x b q (complete .block s.devAddr x (x.okOutcome b) r also s))

theorem transact_setPhase (x : Txn) (e : Status) (q : Phase) (s : State) :
    transact x e (setPhase q s) = setPhase q (transact x e s) := by
  have hn : nextAnswer (setPhase q s) = nextAnswer s := rfl
  cases h : nextAnswer s with
  | plain =>
    rw [transact_plain h, transact_plain (hn.trans h)]
    exact answerOk_setPhase ..
  | ok b r also =>
    rw [transact_ok h, transact_ok (hn.trans h)]
    exact answerOk_setPhase ..
  | err r also =>
    rw [transact_err h, transact_err (hn.trans h)]
    rfl
  | silent => rw [transact_silent h, transact_silent (hn.trans h)]

theorem transact_phase (x : Txn) (e : Status) (s : State) : (transact x e s).phase = s.phase := by
  obtain ⟨b, r, also, h, -⟩ | ⟨r, also, -, h⟩ | ⟨-, h⟩ := transact_cases x e s <;> simp [h]

theorem otherMove_setPhase (d : DevAddr) (x : Txn) (q : Phase) (s : State) :
    otherMove d x (setPhase q s) = setPhase q (otherMove d x s) := by
  have hn : nextAnswer (setPhase q s) = nextAnswer s := rfl
  unfold otherMove
  rw [hn]
  split <;> rfl

/-! ### The block's decisions that read the phase -/

/-- The phase gate tells Uninitialized from the rest, and no more (R160). -/
theorem gateOpen_congr (i : Instr) {p q : Phase} (h : p = .uninitialized ↔ q = .uninitialized) :
    gateOpen i p = gateOpen i q := by
  cases i <;> simp only [gateOpen, ne_eq, h]

theorem afterChannelWrite_eq_uninitialized (p : Phase) :
    p.afterChannelWrite = .uninitialized ↔ p = .uninitialized := by cases p <;> decide

/-- The OK end of a command leads twins to twins (R217). -/
theorem PhaseTwin.finishOf {s u : State} (i : Instr) (h : PhaseTwin s u) :
    PhaseTwin (finishOf i s) (finishOf i u) := by
  obtain ⟨q, rfl, hq⟩ := h
  have hw : PhaseTwin (finishChannelWrite s) (finishChannelWrite (setPhase q s)) :=
    ⟨q.afterChannelWrite, rfl, (afterChannelWrite_eq_uninitialized s.phase).trans
      (hq.trans (afterChannelWrite_eq_uninitialized q).symm)⟩
  cases i with
  | construct dev => exact PhaseTwin.refl _
  | setFrequency hz => exact PhaseTwin.refl _
  | softReset => exact ⟨q, rfl, hq⟩
  | readDutyCycle ch => exact ⟨q, rfl, hq⟩
  | writeSteps ch on off => exact hw
  | writeDutyCycle ch duty => exact hw
  | resetAllChannels => exact hw

theorem pendingTxn_setPhase {s : State} {q : Phase}
    (hq : s.phase = .uninitialized ↔ q = .uninitialized) :
    pendingTxn (setPhase q s) = pendingTxn s := by
  have hg (i : Instr) : nextTxnOf i (setPhase q s) = nextTxnOf i s := by
    simp [nextTxnOf, admitted, gateOpen_congr i hq]
  have hd (i : Instr) : deviceOf i (setPhase q s) = deviceOf i s := by cases i <;> rfl
  simp only [pendingTxn, fetch, setPhase_busy, setPhase_cmd, hg, hd]

/-- The reset input makes twins equal (R240). -/
theorem resetInput_eq_of_phaseTwin {s u : State} (tm : ResetTiming) (h : PhaseTwin s u) :
    resetInput tm u = resetInput tm s := by
  obtain ⟨q, rfl, hq⟩ := h
  cases tm with
  | betweenTransactions => rfl
  | duringTransaction l =>
    simp only [resetInput, abandonTxn, pendingTxn_setPhase hq]
    cases pendingTxn s <;> rfl

/-! ### The block's move, case by case (R160, R208) -/

theorem blockStep_idle {s : State} (hb : s.busy = false) (hc : s.cmdIn = []) :
    blockStep s = .next s := by
  simp [blockStep, hb, hc]

theorem blockStep_accept {s : State} {w : CmdWord} {rest : List CmdWord} (hb : s.busy = false)
    (hc : s.cmdIn = w :: rest) : blockStep s = .next (accept w rest s) := by
  simp [blockStep, hb, hc]

theorem blockStep_illegal {s : State} {e : IllegalWord} (hb : s.busy = true)
    (hd : decode s.cmd = .error e) : blockStep s = .next (raise .illegalCommand s) := by
  simp [blockStep, fetch, hb, hd]

theorem blockStep_next (s : State) : ∃ t, blockStep s = .next t := by
  cases hb : s.busy with
  | false =>
    cases hc : s.cmdIn with
    | nil => exact ⟨_, blockStep_idle hb hc⟩
    | cons w rest => exact ⟨_, blockStep_accept hb hc⟩
  | true =>
    cases hd : decode s.cmd with
    | error e => exact ⟨_, blockStep_illegal hb hd⟩
    | ok i => exact blockStep_of_decode hb hd ▸ exec_next i s

/-- Every step answers a next state: no agent's move stops the machine (log 19). -/
theorem step_next (s : State) : ∃ t, step s = .next t := by
  unfold step
  cases nextEvent s with
  | blockMove => exact blockStep_next _
  | otherMaster d x => exact ⟨_, rfl⟩
  | reset tm => exact ⟨_, rfl⟩

/-! ### Twins step to twins -/

theorem conduct_phaseTwin {p : Plan} {f : State → State} {s u t : State} (h : PhaseTwin s u)
    (hf : PhaseTwin (f s) (f u)) (hs : conduct p f s = .next t) :
    ∃ t', conduct p f u = .next t' ∧ PhaseTwin t t' := by
  have hq : u.seq = s.seq := by
    obtain ⟨q, rfl, -⟩ := h
    rfl
  obtain ⟨st, he, rfl⟩ | ⟨he, x, hx, rfl⟩ | ⟨he, hx, rfl⟩ := conduct_cases hs
  · exact ⟨_, conduct_error he, h.map (fun _ => rfl) rfl⟩
  · exact ⟨_, conduct_txn he (hq ▸ hx),
      h.map (fun q => transact_setPhase x p.busError q s) (transact_phase x p.busError s)⟩
  · exact ⟨_, conduct_finish he (hq ▸ hx), hf⟩

theorem exec_phaseTwin {i : Instr} {s u t : State} (h : PhaseTwin s u) (hs : exec i s = .next t) :
    ∃ t', exec i u = .next t' ∧ PhaseTwin t t' := by
  have hc : u.cfg = s.cfg := by
    obtain ⟨q, rfl, -⟩ := h
    rfl
  have hg : gateOpen i u.phase = gateOpen i s.phase := by
    obtain ⟨q, rfl, hq⟩ := h
    exact (gateOpen_congr i hq).symm
  have he : PhaseTwin (entered i s) (entered i u) :=
    h.map (fun _ => by cases i <;> rfl) (entered_phase i s)
  rw [exec_eq_conduct] at hs ⊢
  rw [hg, hc]
  split at hs
  next hopen =>
    rw [if_pos hopen]
    exact conduct_phaseTwin he (he.finishOf i) hs
  next hclosed =>
    rw [if_neg hclosed]
    cases hs
    exact ⟨_, rfl, h.map (fun _ => rfl) rfl⟩

theorem blockStep_phaseTwin {s u t : State} (h : PhaseTwin s u) (hs : blockStep s = .next t) :
    ∃ t', blockStep u = .next t' ∧ PhaseTwin t t' := by
  obtain ⟨q, rfl, hq⟩ := h
  have h : PhaseTwin s (setPhase q s) := ⟨q, rfl, hq⟩
  obtain ⟨hb, hc, rfl⟩ | ⟨hb, w, rest, hc, rfl⟩ | ⟨hb, ⟨e, hd⟩, rfl⟩ | ⟨hb, i, hd, he⟩ :=
    blockStep_cases hs
  · exact ⟨_, blockStep_idle hb hc, h⟩
  · exact ⟨_, blockStep_accept hb hc, h.map (fun _ => rfl) rfl⟩
  · exact ⟨_, blockStep_illegal hb hd, h.map (fun _ => rfl) rfl⟩
  · rw [blockStep_of_decode (s := setPhase q s) hb hd]
    exact exec_phaseTwin h he

theorem agentStep_phaseTwin {e : Event} {s u t : State} (h : PhaseTwin s u)
    (hs : agentStep e s = .next t) : ∃ t', agentStep e u = .next t' ∧ PhaseTwin t t' := by
  cases e with
  | blockMove => exact blockStep_phaseTwin h hs
  | otherMaster d x =>
    cases hs
    exact ⟨_, rfl, h.map (fun q => otherMove_setPhase d x q s) (otherMove_phase s d x)⟩
  | reset tm =>
    cases hs
    exact ⟨_, rfl, resetInput_eq_of_phaseTwin tm h ▸ PhaseTwin.refl _⟩

theorem step_phaseTwin {s u t : State} (h : PhaseTwin s u) (hs : step s = .next t) :
    ∃ t', step u = .next t' ∧ PhaseTwin t t' := by
  have he : nextEvent u = nextEvent s := by
    obtain ⟨q, rfl, -⟩ := h
    rfl
  rw [step] at hs ⊢
  rw [he]
  exact agentStep_phaseTwin (h.map (fun _ => rfl) rfl) hs

theorem runSteps_phaseTwin (n : Nat) {s u : State} (h : PhaseTwin s u) :
    ∃ t t', runSteps n s = .next t ∧ runSteps n u = .next t' ∧ PhaseTwin t t' := by
  induction n generalizing s u with
  | zero => exact ⟨s, u, rfl, rfl, h⟩
  | succ n ih =>
    obtain ⟨t, hs⟩ := step_next s
    obtain ⟨t', hu, ht⟩ := step_phaseTwin h hs
    rw [runSteps_succ n hs, runSteps_succ n hu]
    exact ih ht

theorem PhaseTwin.observe_eq {s u : State} (h : PhaseTwin s u) : observe s = observe u := by
  obtain ⟨q, rfl, -⟩ := h
  rfl

/-- Settles O52: phase twins step to phase twins, so by induction on the run they run to phase twins,
which show the same. -/
theorem laterPhasesAreIndistinguishable : Obligations.LaterPhasesAreIndistinguishable := by
  refine ⟨fun s t q hs hq h => ?_, fun n s p q hp hq => ?_⟩
  · obtain ⟨t', hu, q', rfl, hq'⟩ := step_phaseTwin (phaseTwin_setPhase hs hq) h
    exact ⟨q', hu, hq'⟩
  · obtain ⟨t, u, ht, hu, h⟩ := runSteps_phaseTwin n
      (phaseTwin_setPhase (s := setPhase p s) hp hq)
    exact ⟨t, u, ht, hu, h.observe_eq⟩

end Sys2Proof.Proofs

namespace Sys2Proof.Proofs

open Sys2Proof.Machine Sys2Proof.Laws

/-! ### The word of a command decodes to it -/

/-- The decoder takes the branch of the command's operation code and reads its operands back from their
fields (R81 to R88). -/
theorem decode_encode {i : Instr} (h : i.wellFormed = true) : decode (encode i) = .ok i := by
  unfold decode
  rw [show wordOp (encode i) = opcodeOf i by cases i <;> exact wordOp_commandWord ..]
  cases i with
  | construct dev =>
    simp [opcodeOf, encode, requireZero, wordCh_commandWord, wordArgHigh_device, wordDev_device]
  | softReset => simp [opcodeOf, encode, requireZero, wordCh_commandWord, wordArg_commandWord]
  | setFrequency hz =>
    simp [opcodeOf, encode, requireZero, wordCh_commandWord, wordArg_commandWord, toInt_ofInt_32 h]
  | writeSteps ch on off =>
    obtain ⟨hon, hoff⟩ := Bool.and_eq_true_iff.mp h
    simp [opcodeOf, encode, wordCh_commandWord, wordOn_steps, wordOff_steps,
      channelOf_channelField, toInt_ofInt_16 hon, toInt_ofInt_16 hoff]
  | writeDutyCycle ch duty =>
    simp [opcodeOf, encode, wordCh_commandWord, wordArg_commandWord, channelOf_channelField,
      toInt_ofInt_32 h]
  | readDutyCycle ch =>
    simp [opcodeOf, encode, requireZero, wordCh_commandWord, wordArg_commandWord,
      channelOf_channelField]
  | resetAllChannels =>
    simp [opcodeOf, encode, requireZero, wordCh_commandWord, wordArg_commandWord]

/-! ### An admitted command on a bus that answers `ok` -/

theorem nextAnswer_okBus {s : State} (h : s.okBus) : (nextAnswer s).isOk = true := by
  unfold nextAnswer
  cases ha : s.answers with
  | nil => rfl
  | cons a l => exact h a (ha ▸ List.mem_cons_self)

theorem okBus_tail {s t : State} (h : s.okBus) (ht : t.answers = s.answers.tail) : t.okBus :=
  fun a ha => h a (List.mem_of_mem_tail (ht ▸ ha))

/-- A transaction on a bus that answers `ok` is done. -/
theorem transact_okBus {s : State} (h : s.okBus) (x : Txn) (e : Status) :
    ∃ b r also, transact x e s = answerOk x b r also s := by
  have hn := nextAnswer_okBus h
  obtain ⟨b, r, also, ht, -⟩ | ⟨r, also, ha, -⟩ | ⟨ha, -⟩ := transact_cases x e s
  · exact ⟨b, r, also, ht⟩
  · rw [ha] at hn
    cases hn
  · rw [ha] at hn
    cases hn

/-- The block executes the admitted command `i`, undisturbed and on a bus that answers `ok`. -/
structure Underway (i : Instr) (s : State) : Prop where
  busy : s.busy = true
  decoded : decode s.cmd = .ok i
  admitted : admitted i s = true
  undisturbed : s.undisturbed
  okBus : s.okBus

/-- `t` is the OK end of the command `i` that in `s` had its transactions from blk.seq on to make: they
have been made, in order, to the command's device, and none failed. -/
structure CompletedFrom (i : Instr) (s t : State) : Prop where
  idle : t.busy = false
  cmdIn : t.cmdIn = s.cmdIn
  responded : ∃ r, t.responses = s.responses ++ [rspWord .ok r]
  phase : t.phase = phaseAfterOk i s.phase
  devAddr : t.devAddr = deviceOf i s
  traced : ∃ recs, t.trace = s.trace ++ recs ∧
    recs.map (·.txn) = (planOf s.cfg i).txns.drop s.seq.toNat ∧
    ∀ x ∈ recs, x.master = .block ∧ x.dev = deviceOf i s ∧ x.outcome ≠ .err

theorem finishOf_responses (i : Instr) (s : State) :
    ∃ r, (finishOf i s).responses = s.responses ++ [rspWord .ok r] := by
  cases i <;> exact ⟨_, rfl⟩

theorem okOutcome_ne_err (x : Txn) (b : Byte) : x.okOutcome b ≠ .err := by cases x <;> nofun

theorem deviceOf_answerOk_entered (i : Instr) (s : State) (x : Txn) (b : Byte) (r : Residue)
    (also : List TargetChange) :
    deviceOf i (answerOk x b r also (entered i s)) = deviceOf i s :=
  (deviceOf_of_devAddr (answerOk_devAddr ..)).trans (answerOk_devAddr ..)

namespace Underway

variable {i : Instr} {s : State}

theorem step_eq_exec (h : Underway i s) : step s = exec i s :=
  step_busy h.busy h.undisturbed h.decoded

/-- While transactions are left, a step makes the next one. -/
theorem step_txn (h : Underway i s) {x : Txn} (hx : (planOf s.cfg i).txns[s.seq.toNat]? = some x) :
    ∃ b r also, step s = .next (answerOk x b r also (entered i s)) ∧
      Underway i (answerOk x b r also (entered i s)) := by
  obtain ⟨b, r, also, ht⟩ := transact_okBus (s := entered i s) h.okBus x (busStatusOf i)
  refine ⟨b, r, also, by rw [h.step_eq_exec, exec_txn h.admitted hx, ht], ?_⟩
  exact {
    busy := by simpa using h.busy
    decoded := by simpa using h.decoded
    admitted := (admitted_congr i (by simp) (by simp)).trans h.admitted
    undisturbed := (answerOk_agenda ..).trans h.undisturbed
    okBus := okBus_tail h.okBus (answerOk_answers ..) }

/-- With no transaction left, a step is the command's OK end. -/
theorem step_finish (h : Underway i s) (hx : (planOf s.cfg i).txns[s.seq.toNat]? = none) :
    step s = .next (finishOf i (entered i s)) ∧ CompletedFrom i s (finishOf i (entered i s)) := by
  refine ⟨by rw [h.step_eq_exec, exec_finish h.admitted hx], ?_⟩
  exact {
    idle := finishOf_busy ..
    cmdIn := finishOf_cmdIn ..
    responded := finishOf_responses i (entered i s)
    phase := finishOf_phase (s := entered i s) (gateOpen_of_admitted h.admitted)
    devAddr := finishOf_devAddr ..
    traced := ⟨[], by simp, (List.drop_eq_nil_of_le (List.getElem?_eq_none_iff.mp hx)).symm,
      nofun⟩ }

end Underway

/-- A completed command is completed from one transaction earlier. -/
theorem CompletedFrom.of_answerOk {i : Instr} {s t : State} {x : Txn} {b : Byte} {r : Residue}
    {also : List TargetChange} (hx : (planOf s.cfg i).txns[s.seq.toNat]? = some x)
    (h : CompletedFrom i (answerOk x b r also (entered i s)) t) : CompletedFrom i s t := by
  obtain ⟨hi, hc, hr, hp, hd, recs, ht, htx, hall⟩ := h
  rw [deviceOf_answerOk_entered] at hd hall
  rw [answerOk_cfg, entered_cfg, answerOk_seq, entered_seq, (seq_succ_toNat hx).1] at htx
  refine ⟨hi, by simpa using hc, by simpa using hr, by simpa using hp, hd,
    ⟨.block, deviceOf i s, x, x.okOutcome b⟩ :: recs, by simpa using ht, ?_, ?_⟩
  · obtain ⟨hn, hget⟩ := List.getElem?_eq_some_iff.mp hx
    rw [List.map_cons, htx, List.drop_eq_getElem_cons hn, hget]
  · exact List.forall_mem_cons.mpr ⟨⟨rfl, rfl, okOutcome_ne_err x b⟩, hall⟩

/-- A command with `n` transactions left completes in `n + 1` steps (log 1). -/
theorem Underway.completes {i : Instr} (n : Nat) {s : State} (h : Underway i s)
    (hn : s.seq.toNat + n = sequenceLength i) :
    ∃ t, runSteps (n + 1) s = .next t ∧ CompletedFrom i s t := by
  induction n generalizing s with
  | zero =>
    have hx : (planOf s.cfg i).txns[s.seq.toNat]? = none :=
      List.getElem?_eq_none_iff.mpr (by rw [length_txns]; omega)
    obtain ⟨hs, hc⟩ := h.step_finish hx
    exact ⟨_, runSteps_succ 0 hs, hc⟩
  | succ n ih =>
    have hl : s.seq.toNat < (planOf s.cfg i).txns.length := by rw [length_txns]; omega
    have hx := List.getElem?_eq_getElem hl
    obtain ⟨b, r, also, hs, hu⟩ := h.step_txn hx
    obtain ⟨t, ht, hc⟩ := ih hu (by
      rw [answerOk_seq, entered_seq, (seq_succ_toNat hx).1]
      omega)
    exact ⟨t, (runSteps_succ (n + 1) hs).trans ht, hc.of_answerOk hx⟩

/-- Settles O53: acceptance puts the command underway at its transaction 0, from where it completes by
induction on the transactions left. -/
theorem admittedCommandRunsToCompletion : Obligations.AdmittedCommandRunsToCompletion := by
  intro i s rest hw ha hb hu hk hc
  have hstart : Underway i (accept (encode i) rest s) :=
    ⟨rfl, decode_encode hw, ha, hu, hk⟩
  obtain ⟨t, ht, hi, hport, ⟨r, hr⟩, hp, hd, recs, htr, htx, hall⟩ :=
    hstart.completes (sequenceLength i) (Nat.zero_add _)
  have hdev : deviceOf i (accept (encode i) rest s) = deviceOf i s := by cases i <;> rfl
  rw [hdev] at hd hall
  refine ⟨t, recs, r, (runSteps_succ _ (step_accept hb hu hc)).trans ht, hi, hport, hr, hp, hd, htr,
    htx, ?_, hall⟩
  rw [← List.length_map (·.txn), htx]
  exact length_txns s.cfg i

end Sys2Proof.Proofs

namespace Sys2Proof.Proofs

open Sys2Proof.Machine Sys2Proof.Laws

/-! ### One transaction of a command, by its answer -/

theorem nextTxnOf_eq_some {i : Instr} {s : State} {x : Txn} (ha : admitted i s = true)
    (hx : nextTxnOf i s = some x) : (planOf s.cfg i).txns[s.seq.toNat]? = some x := by
  rwa [nextTxnOf, if_pos ha] at hx

/-- The command's step is its next transaction, to the command's device. -/
theorem exec_nextTxnOf {i : Instr} {s : State} {x : Txn} (ha : admitted i s = true)
    (hx : nextTxnOf i s = some x) :
    exec i s = .next (transact x (busStatusOf i) (entered i s)) :=
  exec_txn ha (nextTxnOf_eq_some ha hx)

/-- What the register a write addresses holds afterwards is what its answer draws (93 U1). -/
theorem targetByte_settle_write_leftBy (s : State) (dev : DevAddr) (reg : RegNum) (v : Byte)
    (r : Residue) (also : List TargetChange) :
    targetByte (settle dev (.write reg v) r also s) dev reg =
      leftBy r (targetByte s dev reg) v := by
  rw [targetByte_settle_write_same]
  cases r <;> rfl

theorem answerOk_rd_read (reg : RegNum) (b : Byte) (r : Residue) (also : List TargetChange)
    (s : State) :
    (answerOk (.read reg) b r also s).rd = Window.set s.rd (byteIndex s.seq) b := rfl

theorem answerOk_rd_write (reg : RegNum) (v b : Byte) (r : Residue) (also : List TargetChange)
    (s : State) : (answerOk (.write reg v) b r also s).rd = s.rd := rfl

/-- Settles O32: the step is the transaction done (`answerOk`), and the targets hold what `settle`
leaves. -/
theorem answeredTransactionAdvances : Obligations.AnsweredTransactionAdvances := by
  intro i s x b r also ha hx hn
  refine ⟨answerOk x b r also (entered i s),
    by rw [exec_nextTxnOf ha hx, transact_ok (s := entered i s) hn],
    by simp, by simp, by simp, by simp, by simp, by simp, by simp, ?_, ?_, ?_⟩
  · rintro reg rfl
    exact answerOk_rd_read ..
  · rintro reg v rfl
    rw [targetByte_answerOk]
    exact ⟨answerOk_rd_write .., targetByte_settle_write_leftBy (entered i s) ..⟩
  · intro dev reg hk hs
    rw [targetByte_answerOk]
    exact targetByte_settle_ne (entered i s) x r also hk hs

/-- Settles O33: the step is the failed transaction (`answerErr`), and the targets hold what `settle`
leaves. -/
theorem failedTransactionEndsTheCommand : Obligations.FailedTransactionEndsTheCommand := by
  intro i s x r also ha hx hn
  refine ⟨answerErr x r also (busStatusOf i) (entered i s),
    by rw [exec_nextTxnOf ha hx, transact_err (s := entered i s) hn],
    by simp, by simp, by simp, by simp, by simp, by simp, by simp, ?_, ?_⟩
  · rintro reg v rfl
    rw [targetByte_answerErr]
    exact targetByte_settle_write_leftBy (entered i s) ..
  · intro dev reg hk hs
    rw [targetByte_answerErr]
    exact targetByte_settle_ne (entered i s) x r also hk hs

/-- Settles O34: without an answer the transaction leaves the state it started from, where blk.dev_addr
has been written. -/
theorem silentBusKeepsTheBlockWaiting : Obligations.SilentBusKeepsTheBlockWaiting := by
  intro i s x ha hx hn
  rw [exec_nextTxnOf ha hx, transact_silent (s := entered i s) hn]
  rfl

/-! ### What a step does to the targets -/

/-- From `s` to `t` the targets changed by nothing, or by one transaction that the trace shows, a read
changing what `also` lists beside its register. -/
def OneTransactionShown (also : List TargetChange) (s t : State) : Prop :=
  (t.trace = s.trace ∧ t.mem = s.mem) ∨
  ∃ q r, t.trace = s.trace ++ [q] ∧
    t.mem = Memory.applyChanges s.cfg (q.txn.changes q.dev r also) s.mem

theorem transact_shown (x : Txn) (e : Status) (s : State) :
    OneTransactionShown (nextAnswer s).also s (transact x e s) := by
  cases hn : nextAnswer s with
  | plain =>
    rw [transact_plain hn]
    exact .inr ⟨_, _, answerOk_trace .., answerOk_mem ..⟩
  | ok b r also =>
    rw [transact_ok hn]
    exact .inr ⟨_, _, answerOk_trace .., answerOk_mem ..⟩
  | err r also =>
    rw [transact_err hn]
    exact .inr ⟨_, _, answerErr_trace .., answerErr_mem ..⟩
  | silent =>
    rw [transact_silent hn]
    exact .inl ⟨rfl, rfl⟩

theorem otherMove_shown (d : DevAddr) (x : Txn) (s : State) :
    OneTransactionShown (nextAnswer s).also s (otherMove d x s) := by
  unfold otherMove
  cases nextAnswer s with
  | silent => exact .inl ⟨rfl, rfl⟩
  | _ => exact .inr ⟨_, _, complete_trace .., complete_mem ..⟩

/-- An abandoned transaction changes nothing beside its own register (R257). -/
theorem resetInput_shown (tm : ResetTiming) (s : State) :
    OneTransactionShown [] s (resetInput tm s) := by
  cases tm with
  | betweenTransactions => exact .inl ⟨rfl, rfl⟩
  | duringTransaction l =>
    obtain ⟨-, h⟩ | ⟨d, x, r, -, -, -, h⟩ := abandonTxn_cases l s <;> rw [resetInput, h]
    · exact .inl ⟨rfl, rfl⟩
    · exact .inr ⟨⟨.block, d, x, .discarded⟩, r, rfl, rfl⟩

theorem exec_shown {i : Instr} {s t : State} (h : exec i s = .next t) :
    OneTransactionShown (nextAnswer s).also s t := by
  obtain ⟨-, rfl⟩ | ⟨-, st, -, rfl⟩ | ⟨-, x, -, rfl⟩ | ⟨-, -, rfl⟩ := exec_cases h
  · exact .inl ⟨rfl, rfl⟩
  · exact .inl ⟨rfl, rfl⟩
  · exact transact_shown x (planOf s.cfg i).busError (entered i s)
  · exact .inl ⟨finishOf_trace .., finishOf_mem ..⟩

theorem blockStep_shown {s t : State} (h : blockStep s = .next t) :
    OneTransactionShown (nextAnswer s).also s t := by
  obtain ⟨-, -, rfl⟩ | ⟨-, w, rest, -, rfl⟩ | ⟨-, -, rfl⟩ | ⟨-, i, -, he⟩ := blockStep_cases h
  · exact .inl ⟨rfl, rfl⟩
  · exact .inl ⟨rfl, rfl⟩
  · exact .inl ⟨rfl, rfl⟩
  · exact exec_shown he

/-- No step of any agent changes the targets but by a transaction it shows (R60, R62). -/
theorem step_shown {s t : State} (h : step s = .next t) :
    OneTransactionShown (comingChanges s) s t := by
  unfold comingChanges
  obtain ⟨he, hb⟩ | ⟨d, x, he, rfl⟩ | ⟨tm, he, rfl⟩ := step_cases h <;> rw [he]
  · exact blockStep_shown (s := popAgenda s) hb
  · exact otherMove_shown d x (popAgenda s)
  · exact resetInput_shown tm (popAgenda s)

theorem OneTransactionShown.targetByte_eq {also : List TargetChange} {s t : State} {dev : DevAddr}
    {reg : RegNum} (h : OneTransactionShown also s t) (hc : t.cfg = s.cfg)
    (hk : ∀ recs, t.trace = s.trace ++ recs → ∀ x ∈ recs,
      cellKey s.cfg x.dev x.txn.reg ≠ cellKey s.cfg dev reg ∧
      ∀ c ∈ x.txn.sideEffects also, cellKey s.cfg c.dev c.reg ≠ cellKey s.cfg dev reg) :
    targetByte t dev reg = targetByte s dev reg := by
  obtain ⟨-, hm⟩ | ⟨q, r, ht, hm⟩ := h
  · exact targetByte_congr hc hm dev reg
  · obtain ⟨hq, hs⟩ := hk [q] ht q List.mem_cons_self
    exact (targetByte_congr (s := settle q.dev q.txn r also s) hc hm dev reg).trans
      (targetByte_settle_ne s q.txn r also hq hs)

/-- Settles O44: a step changes the targets by one transaction it shows (`step_shown`), and that reaches
only the registers the premise excludes. -/
theorem registersChangeOnlyByTransactions : Obligations.RegistersChangeOnlyByTransactions :=
  fun _ _ _ _ h hk => (step_shown h).targetByte_eq (step_move h).cfg hk

end Sys2Proof.Proofs

namespace Sys2Proof.Proofs

open Sys2Proof.Machine Sys2Proof.Laws

/-! ### The reference target and its stores (R65, R27) -/

theorem targetByte_referenceTarget (init : Vector Byte 256) (s : State) (dev : DevAddr)
    (reg : RegNum) : targetByte (referenceTarget init s) dev reg = init[reg.toNat] := by
  simp [targetByte, referenceTarget, Memory.byteAt, Memory.get, unlisted, cellKey,
    Nat.mod_eq_of_lt reg.isLt]

theorem targetByte_storeTarget_shared {s : State} (hs : s.cfg.space = .shared) (dev dev' : DevAddr)
    (reg : RegNum) (v : Byte) : targetByte (storeTarget dev reg v s) dev' reg = v := by
  rw [targetByte, storeTarget_cfg, cellKey_shared hs dev' dev]
  exact targetByte_storeTarget_same s dev reg v

theorem targetByte_storeTarget_shared_ne {s : State} (hs : s.cfg.space = .shared)
    (dev dev' : DevAddr) {reg reg' : RegNum} (v : Byte) (h : reg' ≠ reg) :
    targetByte (storeTarget dev reg v s) dev' reg' = targetByte s dev' reg' := by
  refine targetByte_storeTarget_ne s v ?_
  rw [cellKey_shared hs dev dev']
  exact cellKey_ne h.symm

theorem targetByte_storeTarget_perDevice_ne {s : State} (hs : s.cfg.space = .perDevice)
    {dev dev' : DevAddr} (reg reg' : RegNum) (v : Byte) (h : dev' ≠ dev) :
    targetByte (storeTarget dev reg v s) dev' reg' = targetByte s dev' reg' :=
  targetByte_storeTarget_ne s v fun hk => h (cellKey_inj_perDevice hs hk).1.symm

/-! ### The fault-injecting target's answers (R65) -/

theorem le_foldl_max {l : List Nat} {m n : Nat} (h : n ≤ m ∨ n ∈ l) : n ≤ l.foldl max m := by
  induction l generalizing m with
  | nil => simpa using h
  | cons a l ih =>
    rw [List.mem_cons] at h
    exact ih (by rw [le_max_iff]; obtain h | rfl | h := h <;> simp [*])

/-- The list of answers reaches every number in the set. -/
theorem getElem?_faultAnswers (fails : List Nat) (n : Nat) :
    ((faultAnswers fails)[n]?).getD .plain = if n ∈ fails then .err .old [] else .plain := by
  rw [faultAnswers, List.getElem?_map]
  by_cases hn : n < fails.foldl max 0 + 1
  · rw [List.getElem?_range hn]
    rfl
  · have hf : n ∉ fails := fun h => hn (Nat.lt_succ_of_le (le_foldl_max (.inr h)))
    rw [List.getElem?_eq_none (by simpa using hn), if_neg hf]
    rfl

/-! ### The record of a step, by its answer -/

/-- What a step that records a transaction with an outcome took from the list of answers. -/
theorem step_record_cases {s t : State} {q : BusRecord} (h : step s = .next t)
    (ht : t.trace = s.trace ++ [q]) (ho : q.outcome ≠ .discarded) :
    ∃ r also, t.mem = Memory.applyChanges s.cfg (q.txn.changes q.dev r also) s.mem ∧
      ((nextAnswer s = .plain ∧ q.outcome = q.txn.okOutcome (targetByte s q.dev q.txn.reg) ∧
          r = .new ∧ also = []) ∨
        (∃ b, nextAnswer s = .ok b r also ∧ q.outcome = q.txn.okOutcome b) ∨
        (nextAnswer s = .err r also ∧ q.outcome = .err)) := by
  obtain ⟨hs, -, -⟩ | ⟨m, d, x, o, r, also, hs, -, hm, hr⟩ := step_bus_cases h
  · simp [hs] at ht
  · obtain rfl : ⟨m, d, x, o⟩ = q := by simpa [hs] using ht
    exact ⟨r, also, hm, hr.resolve_left ho⟩

/-- A plain answer: the transaction is done with the byte held, a write lands. -/
theorem step_record_plain {s t : State} {q : BusRecord} (h : step s = .next t)
    (ht : t.trace = s.trace ++ [q]) (ho : q.outcome ≠ .discarded) (hn : nextAnswer s = .plain) :
    q.outcome = q.txn.okOutcome (targetByte s q.dev q.txn.reg) ∧
      t.mem = Memory.applyChanges s.cfg (q.txn.changes q.dev .new []) s.mem := by
  obtain ⟨r, also, hm, ⟨-, hq, rfl, rfl⟩ | ⟨b, hb, -⟩ | ⟨hb, -⟩⟩ := step_record_cases h ht ho
  · exact ⟨hq, hm⟩
  · cases hn.symm.trans hb
  · cases hn.symm.trans hb

/-- A failing answer: outcome err, and the targets as the answer says. -/
theorem step_record_err {s t : State} {q : BusRecord} {r : Residue} {also : List TargetChange}
    (h : step s = .next t) (ht : t.trace = s.trace ++ [q]) (ho : q.outcome ≠ .discarded)
    (hn : nextAnswer s = .err r also) :
    q.outcome = .err ∧
      t.mem = Memory.applyChanges s.cfg (q.txn.changes q.dev r also) s.mem := by
  obtain ⟨r', also', hm, ⟨hb, -⟩ | ⟨b, hb, -⟩ | ⟨hb, hq⟩⟩ := step_record_cases h ht ho
  · cases hn.symm.trans hb
  · cases hn.symm.trans hb
  · cases hn.symm.trans hb
    exact ⟨hq, hm⟩

/-- A failed transaction whose register keeps its byte, with no side effect, changes nothing. -/
theorem changes_old_nil (dev : DevAddr) (x : Txn) : x.changes dev .old [] = [] := by
  cases x <;> rfl

/-! ### The answers of a run -/

/-- The outcome `o` agrees with the answer `a`: err exactly when the answer is, unless the reset input
discarded it (R257). -/
def OutcomeAgrees (a : BusAnswer) (o : BusOutcome) : Prop :=
  o = .discarded ∨ (o = .err ↔ ∃ r also, a = .err r also)

theorem step_outcomeAgrees {s t : State} (h : step s = .next t) :
    (t.trace = s.trace ∧ t.answers = s.answers) ∨
    ∃ q, t.trace = s.trace ++ [q] ∧ t.answers = s.answers.tail ∧
      OutcomeAgrees (nextAnswer s) q.outcome := by
  obtain ⟨ht, ha, -⟩ | ⟨m, d, x, o, r, also, ht, ha, -, hr⟩ := step_bus_cases h
  · exact .inl ⟨ht, ha⟩
  · refine .inr ⟨⟨m, d, x, o⟩, ht, ha, hr.imp_right ?_⟩
    rintro (⟨hn, rfl, -⟩ | ⟨b, hn, rfl⟩ | ⟨hn, rfl⟩) <;> simp [hn, okOutcome_ne_err]

theorem nextAnswer_eq_getElem? (s : State) : nextAnswer s = (s.answers[0]?).getD .plain := by
  rw [nextAnswer, List.headD_eq_head?_getD, List.head?_eq_getElem?]

/-- In a run on any target, transaction number `k` of the trace took answer number `k` of the list,
whichever master made it (log 3). -/
theorem runSteps_outcomesAgree (n : Nat) {s t : State} (h : runSteps n s = .next t) :
    ∃ recs, t.trace = s.trace ++ recs ∧
      ∀ (k : Nat) (q : BusRecord),
        recs[k]? = some q → OutcomeAgrees ((s.answers[k]?).getD .plain) q.outcome := by
  induction n generalizing s with
  | zero =>
    cases h
    exact ⟨[], (List.append_nil _).symm, fun k q hq => by simp at hq⟩
  | succ n ih =>
    obtain ⟨u, hu⟩ := step_next s
    rw [runSteps_succ n hu] at h
    obtain ⟨recs, ht, hall⟩ := ih h
    obtain ⟨htr, han⟩ | ⟨q, htr, han, hq⟩ := step_outcomeAgrees hu
    · rw [htr] at ht
      rw [han] at hall
      exact ⟨recs, ht, hall⟩
    · refine ⟨q :: recs, by rw [ht, htr, List.append_assoc]; rfl, fun k p hp => ?_⟩
      cases k with
      | zero =>
        cases hp
        rwa [← nextAnswer_eq_getElem?]
      | succ k =>
        rw [List.getElem?_cons_succ] at hp
        simpa [han, List.getElem?_tail] using hall k p hp

/-- Settles O60: the stores by their addresses, a step by its answer (`step_record_plain`,
`step_record_err`), a run by its list of answers (`runSteps_outcomesAgree`). -/
theorem referenceTargetIgnoresTheDevice : Obligations.ReferenceTargetIgnoresTheDevice := by
  refine ⟨targetByte_referenceTarget, fun s dev dev' reg reg' v hs => ?_,
    fun init fails s => getElem?_faultAnswers fails,
    fun s dev dev' reg reg' v hs => targetByte_storeTarget_perDevice_ne hs reg reg' v,
    fun s t q h ht ho => ⟨?_, ?_, fun hn => ?_⟩, fun n init fails s t h => ?_⟩
  · exact ⟨targetByte_storeTarget_shared hs dev dev' reg v,
      targetByte_storeTarget_shared_ne hs dev dev' v⟩
  · intro reg v hq hn
    have hr := step_record_plain h ht ho hn
    rwa [hq] at hr
  · intro reg hq hn
    have hr := step_record_plain h ht ho hn
    rwa [hq] at hr
  · have hr := step_record_err h ht ho hn
    rwa [changes_old_nil] at hr
  · obtain ⟨recs, ht, hall⟩ := runSteps_outcomesAgree n h
    refine ⟨recs, ht, fun k q hq => ?_⟩
    have ha := hall k q hq
    rw [show (faultTarget init fails s).answers = faultAnswers fails from rfl,
      getElem?_faultAnswers] at ha
    constructor
    · intro hk
      rw [if_pos hk] at ha
      exact ha.symm.imp_left fun he => he.mpr ⟨_, _, rfl⟩
    · intro hk he
      rw [if_neg hk, he] at ha
      simp [OutcomeAgrees] at ha

end Sys2Proof.Proofs

namespace Sys2Proof.Proofs

open Sys2Proof.Machine Sys2Proof.Laws

/-! ### An admitted command, whatever the bus answers -/

/-- The block executes the admitted command `i`, undisturbed. -/
structure Executing (i : Instr) (s : State) : Prop where
  busy : s.busy = true
  decoded : decode s.cmd = .ok i
  admitted : admitted i s = true
  undisturbed : s.undisturbed

theorem executing_accept {i : Instr} {s : State} (hw : i.wellFormed = true)
    (ha : admitted i s = true) (hu : s.undisturbed) (rest : List CmdWord) :
    Executing i (accept (encode i) rest s) :=
  ⟨rfl, decode_encode hw, ha, hu⟩

theorem exists_txn {i : Instr} {s : State} (hn : s.seq.toNat < sequenceLength i) :
    ∃ x, (planOf s.cfg i).txns[s.seq.toNat]? = some x :=
  ⟨_, List.getElem?_eq_getElem (by rwa [length_txns])⟩

namespace Executing

variable {i : Instr} {s : State} {x : Txn}

/-- While transactions are left, a step makes the next one. -/
theorem step_transact (h : Executing i s) (hx : (planOf s.cfg i).txns[s.seq.toNat]? = some x) :
    step s = .next (transact x (busStatusOf i) (entered i s)) :=
  (step_busy h.busy h.undisturbed h.decoded).trans (exec_txn h.admitted hx)

/-- On a plain store the transaction is done. -/
theorem step_plain (h : Executing i s) (hx : (planOf s.cfg i).txns[s.seq.toNat]? = some x)
    (hp : s.plainBus) : ∃ b, step s = .next (answerOk x b .new [] (entered i s)) :=
  ⟨_, (h.step_transact hx).trans
    (congrArg _ (transact_plain (nextAnswer_plainBus (s := entered i s) hp) x _))⟩

end Executing

/-- A transaction done leaves the command executing. -/
theorem executing_answerOk {i : Instr} {s : State} (h : Executing i s) (x : Txn) (b : Byte)
    (r : Residue) (also : List TargetChange) : Executing i (answerOk x b r also (entered i s)) where
  busy := by simpa using h.busy
  decoded := by simpa using h.decoded
  admitted := (admitted_congr i (by simp) (by simp)).trans h.admitted
  undisturbed := (answerOk_agenda ..).trans h.undisturbed

theorem seq_answerOk_entered {i : Instr} {s : State} {x : Txn}
    (hx : (planOf s.cfg i).txns[s.seq.toNat]? = some x) (b : Byte) (r : Residue)
    (also : List TargetChange) :
    (answerOk x b r also (entered i s)).seq.toNat = s.seq.toNat + 1 := by
  rw [answerOk_seq, entered_seq, (seq_succ_toNat hx).1]

/-! ### A command whose transaction fails -/

/-- An answer that is `ok` lets the transaction be done. -/
theorem transact_isOk {s : State} (h : (nextAnswer s).isOk = true) (x : Txn) (e : Status) :
    ∃ b r also, transact x e s = answerOk x b r also s := by
  obtain ⟨b, r, also, ht, -⟩ | ⟨r, also, ha, -⟩ | ⟨ha, -⟩ := transact_cases x e s
  · exact ⟨b, r, also, ht⟩
  · rw [ha] at h
    cases h
  · rw [ha] at h
    cases h

/-- `t` is the end of the command `i` that in `s` had its transactions from blk.seq on to make: `k` of
them were done and the next one failed, with `more` the answers left. -/
structure FailedAfter (i : Instr) (k : Nat) (more : List BusAnswer) (s t : State) : Prop where
  idle : t.busy = false
  responded : t.responses = s.responses ++ [rspWord (busStatusOf i) 0]
  phase : t.phase = s.phase
  seq : t.seq.toNat = s.seq.toNat + k
  answers : t.answers = more
  traced : ∃ recs, t.trace = s.trace ++ recs ∧
    recs.map (·.txn) = ((planOf s.cfg i).txns.drop s.seq.toNat).take (k + 1)

theorem failedAfter_answerErr {i : Instr} {s : State} {x : Txn}
    (hx : (planOf s.cfg i).txns[s.seq.toNat]? = some x) (r : Residue) (also : List TargetChange) :
    FailedAfter i 0 s.answers.tail s (answerErr x r also (busStatusOf i) (entered i s)) where
  idle := answerErr_busy ..
  responded := answerErr_responses ..
  phase := answerErr_phase ..
  seq := rfl
  answers := answerErr_answers ..
  traced := by
    obtain ⟨hl, rfl⟩ := List.getElem?_eq_some_iff.mp hx
    exact ⟨_, answerErr_trace .., (List.take_one_drop_eq_of_lt_length hl).symm⟩

/-- A command that fails after `k` transactions fails after `k + 1` from one transaction earlier. -/
theorem FailedAfter.of_answerOk {i : Instr} {k : Nat} {more : List BusAnswer} {s t : State} {x : Txn}
    {b : Byte} {r : Residue} {also : List TargetChange}
    (hx : (planOf s.cfg i).txns[s.seq.toNat]? = some x)
    (h : FailedAfter i k more (answerOk x b r also (entered i s)) t) :
    FailedAfter i (k + 1) more s t := by
  obtain ⟨hi, hr, hp, hq, ha, recs, ht, htx⟩ := h
  rw [seq_answerOk_entered hx] at hq htx
  rw [answerOk_cfg, entered_cfg] at htx
  refine ⟨hi, by simpa using hr, by simpa using hp, by omega, ha,
    ⟨.block, deviceOf i s, x, x.okOutcome b⟩ :: recs, by simpa using ht, ?_⟩
  obtain ⟨hl, rfl⟩ := List.getElem?_eq_some_iff.mp hx
  rw [List.map_cons, htx, List.drop_eq_getElem_cons hl, List.take_succ_cons]

theorem nextAnswer_of_cons {s : State} {a : BusAnswer} {l : List BusAnswer}
    (h : s.answers = a :: l) : nextAnswer s = a := by
  rw [nextAnswer, h]
  rfl

/-- A command whose coming answers are `ok` and then a failure fails after that many transactions. -/
theorem Executing.fails {i : Instr} {r : Residue} {also : List TargetChange} {more : List BusAnswer}
    (oks : List BusAnswer) {s : State} (h : Executing i s)
    (hl : s.seq.toNat + oks.length < sequenceLength i) (hok : ∀ a ∈ oks, a.isOk = true)
    (ha : s.answers = oks ++ .err r also :: more) :
    ∃ t, runSteps (oks.length + 1) s = .next t ∧ FailedAfter i oks.length more s t := by
  induction oks generalizing s with
  | nil =>
    obtain ⟨x, hx⟩ := exists_txn hl
    have hs := h.step_transact hx
    have hn : nextAnswer (entered i s) = .err r also := nextAnswer_of_cons ha
    rw [transact_err hn] at hs
    have hf := failedAfter_answerErr hx r also
    rw [ha] at hf
    exact ⟨_, runSteps_succ 0 hs, hf⟩
  | cons a oks ih =>
    rw [List.length_cons] at hl
    obtain ⟨x, hx⟩ := exists_txn (s := s) (i := i) (by omega)
    have hs := h.step_transact hx
    have hn : nextAnswer (entered i s) = a := nextAnswer_of_cons ha
    obtain ⟨hoka, hok⟩ := List.forall_mem_cons.mp hok
    obtain ⟨b, r', also', ht⟩ := transact_isOk (hn ▸ hoka) x (busStatusOf i)
    rw [ht] at hs
    have hq := seq_answerOk_entered hx b r' also'
    obtain ⟨t, hr, hf⟩ := ih (executing_answerOk h x b r' also') (by omega) hok
      (by rw [answerOk_answers, entered_answers, ha]; rfl)
    exact ⟨t, (runSteps_succ _ hs).trans hr, hf.of_answerOk hx⟩

/-- Settles O54: acceptance puts the command at its transaction 0, from where it fails by induction on
the `ok` answers (`Executing.fails`). -/
theorem failedCommandIsAPrefixOfItsSequence : Obligations.FailedCommandIsAPrefixOfItsSequence := by
  rintro i s rest _ oks r also more hw ha hb hu hc hk rfl hok hans
  obtain ⟨t, ht, hi, hr, hp, hq, hm, recs, htr, htx⟩ :=
    (executing_accept hw ha hu rest).fails oks (by simpa using hk) hok hans
  exact ⟨t, recs, (runSteps_succ _ (step_accept hb hu hc)).trans ht, hi, hr, hp,
    hq.trans (Nat.zero_add _), hm, htr, htx⟩

/-! ### A command on a bus that answers -/

theorem nextAnswer_busAnswers {s : State} (h : s.busAnswers) : nextAnswer s ≠ .silent := by
  unfold nextAnswer
  cases ha : s.answers with
  | nil => nofun
  | cons a l => exact h a (ha ▸ List.mem_cons_self)

/-- With an answer at hand, a step of a command ends it or makes its next transaction. -/
theorem exec_progress {i : Instr} {s t : State} (hn : nextAnswer s ≠ .silent)
    (h : exec i s = .next t) :
    (t.busy = false ∧ ∃ w, t.responses = s.responses ++ [w]) ∨
    ∃ x b r also, (planOf s.cfg i).txns[s.seq.toNat]? = some x ∧
      t = answerOk x b r also (entered i s) := by
  obtain ⟨-, rfl⟩ | ⟨-, st, -, rfl⟩ | ⟨-, x, hx, rfl⟩ | ⟨-, -, rfl⟩ := exec_cases h
  · exact .inl ⟨rfl, _, rfl⟩
  · exact .inl ⟨rfl, _, rfl⟩
  · obtain ⟨b, r, also, ht, -⟩ | ⟨r, also, -, ht⟩ | ⟨ha, -⟩ :=
      transact_cases x (planOf s.cfg i).busError (entered i s)
    · exact .inr ⟨x, b, r, also, hx, ht⟩
    · rw [ht]
      exact .inl ⟨answerErr_busy .., _, answerErr_responses ..⟩
    · exact absurd ha hn
  · obtain ⟨r, hr⟩ := finishOf_responses i (entered i s)
    exact .inl ⟨finishOf_busy .., _, hr⟩

/-- A busy block ends its command within one step more than it has transactions left (R169). -/
theorem busy_ends {i : Instr} {s : State} (hb : s.busy = true) (hd : decode s.cmd = .ok i)
    (hu : s.undisturbed) (ha : s.busAnswers) :
    ∃ n t w, n ≤ sequenceLength i - s.seq.toNat + 1 ∧ runSteps n s = .next t ∧ t.busy = false ∧
      t.responses = s.responses ++ [w] := by
  obtain ⟨t, he⟩ := exec_next i s
  have hs : step s = .next t := (step_busy hb hu hd).trans he
  obtain ⟨hi, w, hw⟩ | ⟨x, b, r, also, hx, ht⟩ := exec_progress (nextAnswer_busAnswers ha) he
  · exact ⟨1, t, w, by omega, runSteps_succ 0 hs, hi, hw⟩
  · subst ht
    have hq := seq_answerOk_entered hx b r also
    have hl := (seq_succ_toNat hx).2
    obtain ⟨n, u, w, hn, hr, hi, hw⟩ := busy_ends (i := i) (s := answerOk x b r also (entered i s))
      (by simpa using hb) (by simpa using hd) ((answerOk_agenda ..).trans hu)
      (fun a ha' => ha a (List.mem_of_mem_tail (by simpa using ha')))
    exact ⟨n + 1, u, w, by omega, (runSteps_succ n hs).trans hr, hi, by simpa using hw⟩
termination_by sequenceLength i - s.seq.toNat
decreasing_by omega

/-- Settles O55: an illegal word is answered in one step; a command ends within one step more than its
sequence is long (`busy_ends`). -/
theorem everyCommandEnds : Obligations.EveryCommandEnds := by
  intro s hb hu ha
  cases hd : decode s.cmd with
  | error e =>
    refine ⟨1, raise .illegalCommand s, rspWord .illegalCommand 0, by omega, ?_, rfl, rfl⟩
    refine runSteps_succ 0 ?_
    rw [step_of_blockMove (nextEvent_undisturbed hu), popAgenda_undisturbed hu]
    exact blockStep_illegal hb hd
  | ok i =>
    obtain ⟨n, t, w, hn, h⟩ := busy_ends hb hd hu ha
    have := sequenceLength_le i
    exact ⟨n, t, w, by omega, h⟩

/-! ### The window writes of a channel write -/

theorem applyChanges_append (cfg : Config) (cs ds : List TargetChange) (m : Memory) :
    Memory.applyChanges cfg (cs ++ ds) m =
      Memory.applyChanges cfg ds (Memory.applyChanges cfg cs m) := by
  induction cs generalizing m with
  | nil => rfl
  | cons c cs ih => exact ih _

/-- What transactions change in a plain store, in order. -/
def plainChanges (dev : DevAddr) (xs : List Txn) : List TargetChange :=
  xs.flatMap fun x => x.changes dev .new []

/-- On a plain store, `n` steps of a command leave in the targets what its next `n` transactions write. -/
theorem Executing.plain_run {i : Instr} (n : Nat) {s : State} (h : Executing i s) (hp : s.plainBus)
    (hn : s.seq.toNat + n ≤ sequenceLength i) :
    ∃ t, runSteps n s = .next t ∧ t.cfg = s.cfg ∧
      t.mem = Memory.applyChanges s.cfg
        (plainChanges (deviceOf i s) (((planOf s.cfg i).txns.drop s.seq.toNat).take n)) s.mem := by
  induction n generalizing s with
  | zero => exact ⟨s, rfl, rfl, by simp [plainChanges, Memory.applyChanges]⟩
  | succ n ih =>
    obtain ⟨x, hx⟩ := exists_txn (s := s) (i := i) (by omega)
    obtain ⟨hl, hget⟩ := List.getElem?_eq_some_iff.mp hx
    obtain ⟨b, hs⟩ := h.step_plain hx hp
    have hq := seq_answerOk_entered hx b .new []
    obtain ⟨t, ht, hc, hm⟩ := ih (executing_answerOk h x b .new [])
      (fun a ha => hp a (List.mem_of_mem_tail (by simpa using ha))) (by omega)
    refine ⟨t, (runSteps_succ n hs).trans ht, by simpa using hc, ?_⟩
    rw [deviceOf_answerOk_entered, hq, answerOk_cfg, entered_cfg, answerOk_mem, entered_cfg,
      entered_devAddr, entered_mem, ← applyChanges_append] at hm
    rw [hm, List.drop_eq_getElem_cons hl, hget, List.take_succ_cons]
    rfl

/-- Registers of one window have different addresses. -/
theorem cellKey_windowReg_inj {cfg : Config} {dev : DevAddr} {ch : Channel} {j k : Nat} (hj : j < 4)
    (hk : k < 4) : cellKey cfg dev (windowReg ch j) = cellKey cfg dev (windowReg ch k) ↔ j = k := by
  refine ⟨fun h => ?_, fun h => by rw [h]⟩
  have hn := congrArg BitVec.toNat (cellKey_inj_reg h)
  rw [windowReg, windowReg, window_toNat ch hj, window_toNat ch hk] at hn
  omega

/-- The changes that put `w` into a channel's window, ascending (R133). -/
def windowChanges (dev : DevAddr) (ch : Channel) (w : Window) : List TargetChange :=
  [⟨dev, windowReg ch 0, w.onLow⟩, ⟨dev, windowReg ch 1, w.onHigh⟩,
    ⟨dev, windowReg ch 2, w.offLow⟩, ⟨dev, windowReg ch 3, w.offHigh⟩]

theorem plainChanges_writeChannelTxns (dev : DevAddr) (ch : Channel) (w : Window) (k : Nat) :
    plainChanges dev ((writeChannelTxns ch w).take k) = (windowChanges dev ch w).take k := by
  rcases k with _ | _ | _ | _ | k <;>
    simp [plainChanges, writeChannelTxns, windowChanges, windowReg, Txn.changes, Txn.landed,
      Txn.sideEffects, Txn.reg]

/-- The first `k` of the changes leave the torn window of R247. -/
theorem windowOf_windowChanges {s t : State} {dev : DevAddr} {ch : Channel} {w : Window} {k : Nat}
    (hc : t.cfg = s.cfg)
    (hm : t.mem = Memory.applyChanges s.cfg ((windowChanges dev ch w).take k) s.mem) :
    windowOf t dev ch = tornWindow k (windowOf s dev ch) w := by
  simp only [windowOf, targetByte, hc, hm]
  rcases k with _ | _ | _ | _ | k <;>
    simp [tornWindow, windowChanges, Memory.applyChanges, byteAt_store_ne, cellKey_windowReg_inj]

theorem mem_windowChanges {dev : DevAddr} {ch : Channel} {w : Window} {c : TargetChange}
    (h : c ∈ windowChanges dev ch w) : c.dev = dev ∧ ∃ j : Fin 4, c.reg = windowReg ch j.val := by
  simp only [windowChanges, List.mem_cons, List.not_mem_nil, or_false] at h
  obtain rfl | rfl | rfl | rfl := h
  · exact ⟨rfl, 0, rfl⟩
  · exact ⟨rfl, 1, rfl⟩
  · exact ⟨rfl, 2, rfl⟩
  · exact ⟨rfl, 3, rfl⟩

/-- `write_steps` with valid steps is admitted once the module is set up (R160, R204). -/
theorem admitted_writeSteps {ch : Channel} {on off : Nat} {s : State} (hon : on < 4096)
    (hoff : off < 4096) (hp : s.phase ≠ .uninitialized) :
    admitted (.writeSteps ch on off) s = true := by
  have he : (planOf s.cfg (.writeSteps ch on off)).operandError = none := by
    simp only [planOf, writeStepsPlan, stepError_eq]
    exact if_pos (by omega)
  rw [admitted, he, Bool.and_eq_true]
  exact ⟨decide_eq_true hp, rfl⟩

theorem wellFormed_writeSteps {ch : Channel} {on off : Nat} (hon : on < 4096) (hoff : off < 4096) :
    (Instr.writeSteps ch on off).wellFormed = true := by
  simp only [Instr.wellFormed, fitsSigned, Bool.and_eq_true, decide_eq_true_eq]
  omega

theorem txns_writeSteps (cfg : Config) (ch : Channel) (on off : Nat) :
    (planOf cfg (.writeSteps ch on off)).txns =
      writeChannelTxns ch (encodeStepPair ⟨BitVec.ofNat 12 on, BitVec.ofNat 12 off⟩) := by
  simp [planOf, writeStepsPlan, operandSteps]

/-- Settles O56: the first `k` writes leave the first `k` window changes in the targets
(`Executing.plain_run`), and those tear the window and reach nothing else. -/
theorem runningChannelWriteLeavesATornWindow : Obligations.RunningChannelWriteLeavesATornWindow := by
  intro ch on off s rest k hon hoff hp hb hu hplain hc hk
  obtain ⟨t, ht, hcfg, hm⟩ := (executing_accept (wellFormed_writeSteps (ch := ch) hon hoff)
    (admitted_writeSteps hon hoff hp) hu rest).plain_run k hplain (by simpa [sequenceLength] using hk)
  have hm : t.mem = Memory.applyChanges s.cfg ((windowChanges s.devAddr ch
      (encodeStepPair ⟨BitVec.ofNat 12 on, BitVec.ofNat 12 off⟩)).take k) s.mem := by
    rw [← plainChanges_writeChannelTxns, ← txns_writeSteps s.cfg]
    exact hm
  refine ⟨t, (runSteps_succ k (step_accept hb hu hc)).trans ht, windowOf_windowChanges hcfg hm,
    fun dev reg hr => ?_⟩
  rw [targetByte, hcfg, hm]
  refine byteAt_applyChanges_ne s.cfg _ s.mem fun c hc => ?_
  obtain ⟨hd, j, hj⟩ := mem_windowChanges (List.mem_of_mem_take hc)
  rw [hd, hj]
  exact hr j

end Sys2Proof.Proofs

namespace Sys2Proof.Proofs

open Sys2Proof.Machine Sys2Proof.Laws

/-- Settles O1: the decoder takes the branch of the command's operation and reads its operands back from
their fields (`decode_encode`). -/
theorem decodeOfEncodeIsTheCommand : Obligations.DecodeOfEncodeIsTheCommand :=
  fun _ h => decode_encode h

/-! ### A word by its fields (R80) -/

theorem commandWord_of_fields {w : CmdWord} {op ch : BitVec 4} {arg : BitVec 32} (ho : wordOp w = op)
    (hc : wordCh w = ch) (ha : wordArg w = arg) : commandWord op ch arg = w := by
  rw [← ho, ← hc, ← ha, commandWord_fields]

/-- Words are equal exactly when their three fields are. -/
theorem cmdWord_ext_iff {v w : CmdWord} :
    v = w ↔ wordOp v = wordOp w ∧ wordCh v = wordCh w ∧ wordArg v = wordArg w :=
  ⟨fun h => by simp [h], fun ⟨ho, hc, ha⟩ => by
    rw [← commandWord_fields v, commandWord_of_fields ho.symm hc.symm ha.symm]⟩

/-- `construct`'s two parts of `arg` (R82). -/
theorem wordArgHigh_append_wordDev (w : CmdWord) :
    (wordArgHigh w ++ wordDev w : BitVec 32) = wordArg w :=
  BitVec.extractLsb'_append_extractLsb'_eq_extractLsb' rfl

/-- `write_steps`' two parts of `arg` (R85). -/
theorem wordOn_append_wordOff (w : CmdWord) : (wordOn w ++ wordOff w : BitVec 32) = wordArg w :=
  BitVec.extractLsb'_append_extractLsb'_eq_extractLsb' rfl

/-- A device address fills its `arg` up with zeros (R82). -/
theorem setWidth_device (dev : DevAddr) : dev.setWidth 32 = (0#25 ++ dev : BitVec 32) :=
  BitVec.setWidth_eq_append (by decide)

/-! ### What a legal word decodes to (R81 to R89) -/

/-- `i` is the command that the legal word `w` stands for: one row of R82 to R88 each. -/
inductive Decodes (w : CmdWord) : Instr → Prop
  | construct (hop : wordOp w = 0) (hch : wordCh w = 0) (hhigh : wordArgHigh w = 0) :
      Decodes w (.construct (wordDev w))
  | softReset (hop : wordOp w = 1) (hch : wordCh w = 0) (harg : wordArg w = 0) : Decodes w .softReset
  | setFrequency (hop : wordOp w = 2) (hch : wordCh w = 0) :
      Decodes w (.setFrequency (wordArg w).toInt)
  | writeSteps (hop : wordOp w = 3) :
      Decodes w (.writeSteps (channelOf (wordCh w)) (wordOn w).toInt (wordOff w).toInt)
  | writeDutyCycle (hop : wordOp w = 4) :
      Decodes w (.writeDutyCycle (channelOf (wordCh w)) (wordArg w).toInt)
  | readDutyCycle (hop : wordOp w = 5) (harg : wordArg w = 0) :
      Decodes w (.readDutyCycle (channelOf (wordCh w)))
  | resetAllChannels (hop : wordOp w = 6) (hch : wordCh w = 0) (harg : wordArg w = 0) :
      Decodes w .resetAllChannels

theorem requireZero_eq_ok {c a : Bool} {i j : Instr} (h : requireZero c a i = .ok j) :
    c = true ∧ a = true ∧ i = j := by
  cases c <;> cases a <;> simp_all [requireZero]

theorem decodes_of_decode {w : CmdWord} {i : Instr} (h : decode w = .ok i) : Decodes w i := by
  have hop {n : Nat} (hn : (wordOp w).toNat = n) : wordOp w = BitVec.ofNat 4 n := by simp [← hn]
  unfold decode at h
  split at h
  next hn =>
    obtain ⟨hc, ha, rfl⟩ := requireZero_eq_ok h
    exact .construct (hop hn) (beq_iff_eq.mp hc) (beq_iff_eq.mp ha)
  next hn =>
    obtain ⟨hc, ha, rfl⟩ := requireZero_eq_ok h
    exact .softReset (hop hn) (beq_iff_eq.mp hc) (beq_iff_eq.mp ha)
  next hn =>
    obtain ⟨hc, -, rfl⟩ := requireZero_eq_ok h
    exact .setFrequency (hop hn) (beq_iff_eq.mp hc)
  next hn =>
    cases h
    exact .writeSteps (hop hn)
  next hn =>
    cases h
    exact .writeDutyCycle (hop hn)
  next hn =>
    obtain ⟨-, ha, rfl⟩ := requireZero_eq_ok h
    exact .readDutyCycle (hop hn) (beq_iff_eq.mp ha)
  next hn =>
    obtain ⟨hc, ha, rfl⟩ := requireZero_eq_ok h
    exact .resetAllChannels (hop hn) (beq_iff_eq.mp hc) (beq_iff_eq.mp ha)
  next => cases h

namespace Decodes

variable {w : CmdWord} {i : Instr}

/-- The word is put together from the command's fields, none of its bits lost. -/
theorem encode_eq (h : Decodes w i) : encode i = w := by
  cases h with
  | construct hop hch hhigh =>
    refine commandWord_of_fields hop hch ?_
    rw [setWidth_device, ← wordArgHigh_append_wordDev, hhigh]
    rfl
  | softReset hop hch harg => exact commandWord_of_fields hop hch harg
  | setFrequency hop hch => exact commandWord_of_fields hop hch BitVec.ofInt_toInt.symm
  | writeSteps hop =>
    refine commandWord_of_fields hop (channelField_channelOf _).symm ?_
    rw [BitVec.ofInt_toInt, BitVec.ofInt_toInt, wordOn_append_wordOff]
  | writeDutyCycle hop =>
    exact commandWord_of_fields hop (channelField_channelOf _).symm BitVec.ofInt_toInt.symm
  | readDutyCycle hop harg => exact commandWord_of_fields hop (channelField_channelOf _).symm harg
  | resetAllChannels hop hch harg => exact commandWord_of_fields hop hch harg

/-- A signed operand read from a field fits it. -/
theorem wellFormed (h : Decodes w i) : i.wellFormed = true := by
  cases h with
  | setFrequency | writeDutyCycle => exact fitsSigned_toInt 31 _
  | writeSteps => exact Bool.and_eq_true_iff.mpr ⟨fitsSigned_toInt 15 _, fitsSigned_toInt 15 _⟩
  | _ => rfl

end Decodes

theorem decode_eq_ok_iff {w : CmdWord} {i : Instr} : decode w = .ok i ↔ Decodes w i :=
  ⟨decodes_of_decode, fun h => h.encode_eq ▸ decode_encode h.wellFormed⟩

/-- Settles O2: over the rows a legal word can belong to (`Decodes`). -/
theorem encodeOfDecodeIsTheWord : Obligations.EncodeOfDecodeIsTheWord :=
  fun _ _ h => ⟨(decodes_of_decode h).encode_eq, (decodes_of_decode h).wellFormed⟩

/-! ### The mask and match table (R89) -/

/-- What the rows of the table ask of a word's fields. -/
def IsLegal (w : CmdWord) : Prop :=
  (wordOp w = 0 ∧ wordCh w = 0 ∧ wordArgHigh w = 0) ∨ (wordOp w = 1 ∧ wordCh w = 0 ∧ wordArg w = 0) ∨
    (wordOp w = 2 ∧ wordCh w = 0) ∨ wordOp w = 3 ∨ wordOp w = 4 ∨ (wordOp w = 5 ∧ wordArg w = 0) ∨
    (wordOp w = 6 ∧ wordCh w = 0 ∧ wordArg w = 0)

theorem exists_decode_ok_iff (w : CmdWord) : (∃ i, decode w = .ok i) ↔ IsLegal w := by
  simp only [decode_eq_ok_iff, IsLegal]
  constructor
  · rintro ⟨i, h⟩
    cases h <;> simp [*]
  · rintro (⟨ho, hc, ha⟩ | ⟨ho, hc, ha⟩ | ⟨ho, hc⟩ | ho | ho | ⟨ho, ha⟩ | ⟨ho, hc, ha⟩)
    · exact ⟨_, .construct ho hc ha⟩
    · exact ⟨_, .softReset ho hc ha⟩
    · exact ⟨_, .setFrequency ho hc⟩
    · exact ⟨_, .writeSteps ho⟩
    · exact ⟨_, .writeDutyCycle ho⟩
    · exact ⟨_, .readDutyCycle ho ha⟩
    · exact ⟨_, .resetAllChannels ho hc ha⟩

theorem exists_decode_error_iff (w : CmdWord) : (∃ e, decode w = .error e) ↔ ¬ IsLegal w := by
  rw [← exists_decode_ok_iff]
  cases decode w <;> simp

/-- A word belongs to a row when it does so field by field. -/
theorem holds_iff (r : OpcodeRow) (w : CmdWord) :
    r.holds w = true ↔ wordOp w &&& wordOp r.mask = wordOp r.value ∧
      wordCh w &&& wordCh r.mask = wordCh r.value ∧
      wordArg w &&& wordArg r.mask = wordArg r.value := by
  rw [OpcodeRow.holds, beq_iff_eq, cmdWord_ext_iff]
  simp only [wordOp, wordCh, wordArg, BitVec.extractLsb'_and]

/-- The table with each mask and match put together from fields. -/
theorem opcodeTable_fields : opcodeTable =
    [ ⟨"construct", commandWord 0xF 0xF 0xFFFFFF80, commandWord 0 0 0⟩,
      ⟨"soft_reset", commandWord 0xF 0xF 0xFFFFFFFF, commandWord 1 0 0⟩,
      ⟨"set_frequency", commandWord 0xF 0xF 0, commandWord 2 0 0⟩,
      ⟨"write_steps", commandWord 0xF 0 0, commandWord 3 0 0⟩,
      ⟨"write_duty_cycle", commandWord 0xF 0 0, commandWord 4 0 0⟩,
      ⟨"read_duty_cycle", commandWord 0xF 0 0xFFFFFFFF, commandWord 5 0 0⟩,
      ⟨"reset_all_channels", commandWord 0xF 0xF 0xFFFFFFFF, commandWord 6 0 0⟩ ] := by
  decide

/-- `construct`'s mask of `arg` leaves the part above the device address (R82). -/
theorem wordArg_and_mask_eq_zero_iff (w : CmdWord) :
    wordArg w &&& 0xFFFFFF80#32 = 0#32 ↔ wordArgHigh w = 0#25 := by
  have hmask : 0xFFFFFF80#32 = BitVec.allOnes 25 ++ 0#7 := by decide
  rw [hmask, ← wordArgHigh_append_wordDev, BitVec.and_append, BitVec.and_allOnes, BitVec.and_zero]
  exact BitVec.append_left_inj (s₂ := 0#25) 0#7

theorem exists_row_iff (w : CmdWord) : (∃ r ∈ opcodeTable, r.holds w = true) ↔ IsLegal w := by
  have h4 (x : BitVec 4) : x &&& 0xF#4 = x := BitVec.and_allOnes
  have h32 (x : BitVec 32) : x &&& 0xFFFFFFFF#32 = x := BitVec.and_allOnes
  simp [opcodeTable_fields, holds_iff, wordOp_commandWord, wordCh_commandWord, wordArg_commandWord,
    wordArg_and_mask_eq_zero_iff, h4, h32, IsLegal]

/-- The rows of the table differ in their operation, which every row fixes. -/
theorem row_unique {r q : OpcodeRow} (hr : r ∈ opcodeTable) (hq : q ∈ opcodeTable) {w : CmdWord}
    (hrw : r.holds w = true) (hqw : q.holds w = true) : r = q := by
  have hmask : ∀ r ∈ opcodeTable, wordOp r.mask = BitVec.allOnes 4 := by decide
  have hop : ∀ r ∈ opcodeTable, ∀ q ∈ opcodeTable, wordOp r.value = wordOp q.value → r = q := by
    decide
  obtain ⟨hr', -⟩ := (holds_iff r w).mp hrw
  obtain ⟨hq', -⟩ := (holds_iff q w).mp hqw
  rw [hmask r hr] at hr'
  rw [hmask q hq] at hq'
  exact hop r hr q hq (hr'.symm.trans hq')

/-- A word that no row asks for has a reserved operation or a must-be-zero field that is not 0. -/
theorem not_isLegal_iff (w : CmdWord) : ¬ IsLegal w ↔
    7 ≤ (wordOp w).toNat ∨ ((wordOp w).toNat ∈ [0, 1, 2, 6] ∧ wordCh w ≠ 0) ∨
      ((wordOp w).toNat = 0 ∧ wordArgHigh w ≠ 0) ∨
      ((wordOp w).toNat ∈ [1, 5, 6] ∧ wordArg w ≠ 0) := by
  simp only [IsLegal, List.mem_cons, List.not_mem_nil, or_false]
  bv_omega

/-- Settles O3: legality, by rows and by fields, is `IsLegal`; a busy block raises `IllegalCommand` on an
illegal word. -/
theorem illegalWordsAreRejected : Obligations.IllegalWordsAreRejected := by
  refine ⟨fun w => (exists_decode_ok_iff w).trans (exists_row_iff w).symm,
    fun r hr q hq w => row_unique hr hq,
    fun w => (exists_decode_error_iff w).trans (not_isLegal_iff w), fun s e hb he hd => ?_⟩
  calc step s = blockStep (popAgenda s) := step_of_blockMove he
    _ = .next (raise .illegalCommand (popAgenda s)) :=
      blockStep_illegal ((popAgenda_busy s).trans hb) (by rwa [popAgenda_cmd])

/-! ### Command words put together from their fields (R82 to R88) -/

/-- To decode a word it is enough to recognise it as an encoding. -/
theorem decode_of_encode_eq {w : CmdWord} {i : Instr} (hw : i.wellFormed = true) (h : encode i = w) :
    decode w = .ok i :=
  h ▸ decode_encode hw

/-- Settles O5: each word is the encoding of its operands, which fit the fields they come from. -/
theorem commandWordFields : Obligations.CommandWordFields := by
  refine ⟨fun dev => ?_, ?_, fun hz => ?_, fun ch on off => ?_, fun ch d => ?_, fun ch => ?_, ?_⟩
  · refine decode_of_encode_eq rfl ?_
    rw [encode, setWidth_device, BitVec.append_assoc]
    rfl
  · exact decode_of_encode_eq rfl rfl
  · refine decode_of_encode_eq (fitsSigned_toInt 31 hz) ?_
    rw [encode, BitVec.ofInt_toInt]
    rfl
  · refine decode_of_encode_eq (i := .writeSteps (channelOf ch) on.toInt off.toInt)
      (Bool.and_eq_true_iff.mpr ⟨fitsSigned_toInt 15 on, fitsSigned_toInt 15 off⟩) ?_
    rw [encode, channelField_channelOf, BitVec.ofInt_toInt, BitVec.ofInt_toInt, BitVec.append_assoc]
    rfl
  · refine decode_of_encode_eq (i := .writeDutyCycle (channelOf ch) d.toInt)
      (fitsSigned_toInt 31 d) ?_
    rw [encode, channelField_channelOf, BitVec.ofInt_toInt]
    rfl
  · refine decode_of_encode_eq (i := .readDutyCycle (channelOf ch)) rfl ?_
    rw [encode, channelField_channelOf]
    rfl
  · exact decode_of_encode_eq rfl rfl

/-- Settles O4: nine legal words and one word for each reason of R89, run through the decoder. -/
theorem specWordsDecode : Obligations.SpecWordsDecode := by
  unfold Obligations.SpecWordsDecode
  decide

/-! ### The response word (R90, R91) -/

@[simp] theorem rspStatus_rspWord (st : Status) (r : BitVec 12) :
    rspStatus (rspWord st r) = statusCode st := BitVec.extractLsb'_append_eq_left

@[simp] theorem rspResult_rspWord (st : Status) (r : BitVec 12) : rspResult (rspWord st r) = r :=
  BitVec.extractLsb'_append_eq_right

/-- Settles O6: the two fields are the two parts of the word; the codes are the table's. -/
theorem responseWordFields : Obligations.ResponseWordFields :=
  ⟨fun st r => ⟨rspStatus_rspWord st r, rspResult_rspWord st r⟩, rfl⟩

/-- Settles O7: the assembler run on the program's lines and on the three lines it refuses. -/
theorem textAssemblesToSpecWords : Obligations.TextAssemblesToSpecWords := by
  unfold Obligations.TextAssemblesToSpecWords
  decide

end Sys2Proof.Proofs

namespace Sys2Proof.Proofs

open Sys2Proof.Machine Sys2Proof.Laws

/-! ### The channel windows (R120, R121) -/

theorem windowReg_toNat (ch : Channel) (k : Fin 4) :
    (windowReg ch k.val).toNat = 6 + 4 * ch.val + k.val :=
  window_toNat ch k.isLt

theorem channelBase_toNat (ch : Channel) : (channelBase ch).toNat = 6 + 4 * ch.val := by
  simpa using window_toNat ch (k := 0) (by omega)

/-- Settles O14: the base and the four registers above it by their numbers. -/
theorem channelBaseAddress : Obligations.ChannelBaseAddress := by
  intro ch
  have hch := ch.isLt
  rw [channelBase_toNat]
  exact ⟨by omega, by omega, by omega, windowReg_toNat ch⟩

/-- The number of a window's register tells its channel and its place in the window. -/
theorem windowReg_inj {m n : Channel} {j k : Fin 4} (h : windowReg m j.val = windowReg n k.val) :
    m = n ∧ j = k := by
  have hn := congrArg BitVec.toNat h
  rw [windowReg_toNat, windowReg_toNat] at hn
  exact ⟨Fin.ext (by omega), Fin.ext (by omega)⟩

/-- The windows are the registers 0x06 to 0x45 (R121). -/
theorem exists_windowReg_iff (reg : RegNum) :
    (∃ (ch : Channel) (k : Fin 4), windowReg ch k.val = reg) ↔ 6 ≤ reg.toNat ∧ reg.toNat ≤ 69 := by
  constructor
  · rintro ⟨ch, k, rfl⟩
    rw [windowReg_toNat]
    omega
  · rintro ⟨hlo, hhi⟩
    refine ⟨⟨(reg.toNat - 6) / 4, by omega⟩, ⟨(reg.toNat - 6) % 4, by omega⟩,
      BitVec.eq_of_toNat_eq ?_⟩
    rw [windowReg_toNat]
    dsimp only
    omega

/-- Settles O15: MODE1, MODE2 and PRESCALE are outside the numbers the windows cover
(`exists_windowReg_iff`). -/
theorem channelWindowsPartition : Obligations.ChannelWindowsPartition := by
  refine ⟨fun m n j k => windowReg_inj, fun reg => (exists_windowReg_iff reg).symm, fun ch k => ?_⟩
  have hout {reg : RegNum} (hr : ¬(6 ≤ reg.toNat ∧ reg.toNat ≤ 69)) : windowReg ch k.val ≠ reg :=
    fun h => hr ((exists_windowReg_iff reg).mp ⟨ch, k, h⟩)
  exact ⟨hout (by decide), hout (by decide), hout (by decide)⟩

/-- Settles O47: a move adds to the trace a transaction of another master, or the one that the running
command's plan holds next (`Move.trace_cases`). -/
theorem blockAddressesOnlyItsRegisters : Obligations.BlockAddressesOnlyItsRegisters := by
  intro s t h x hx
  obtain ht | ⟨d, y, o, ht⟩ | ⟨d, y, o, hp, ht⟩ := (step_move h).trace_cases
  · rw [ht] at hx
    exact .inl hx
  · rw [ht, List.mem_append, List.mem_singleton] at hx
    obtain hx | rfl := hx
    · exact .inl hx
    · exact .inr (.inl rfl)
  · obtain ⟨i, -, -, hy, -⟩ := pendingTxn_cases hp
    rw [ht, List.mem_append, List.mem_singleton] at hx
    obtain hx | rfl := hx
    · exact .inl hx
    · exact .inr (.inr (emittable_of_mem_txns (List.mem_of_getElem? hy)))

end Sys2Proof.Proofs

namespace Sys2Proof.Proofs

open Sys2Proof.Machine Sys2Proof.Laws

/-! ### The bytes of a step (R122, R123) -/

theorem toNat_stepLow (v : Step) : (stepLow v).toNat = v.toNat % 256 := by
  rw [stepLow, BitVec.toNat_setWidth, BitVec.toNat_and,
    show (0xFF : Step).toNat = 2 ^ 8 - 1 from rfl, Nat.and_two_pow_sub_one_eq_mod, Nat.mod_mod]

theorem toNat_stepHigh (v : Step) : (stepHigh v).toNat = v.toNat / 256 := by
  have := v.isLt
  rw [stepHigh, BitVec.toNat_setWidth, BitVec.toNat_ushiftRight, Nat.shiftRight_eq_div_pow]
  omega

theorem toNat_and_lowNibble (high : Byte) : (high &&& 0x0F).toNat = high.toNat % 16 :=
  Nat.and_two_pow_sub_one_eq_mod high.toNat 4

theorem toNat_joinStep (low high : Byte) : (joinStep low high).toNat = stepValue low high := by
  have hhigh : ((high &&& 0x0F).setWidth 12 <<< 8 : Step).toNat = (high.toNat % 16) <<< 8 := by
    rw [BitVec.toNat_shiftLeft, BitVec.toNat_setWidth, toNat_and_lowNibble, Nat.shiftLeft_eq]
    omega
  have hlow : (low.setWidth 12 : Step).toNat = low.toNat :=
    BitVec.toNat_setWidth_of_le (by decide)
  rw [joinStep, BitVec.toNat_or, hhigh, hlow, ← Nat.shiftLeft_add_eq_or_of_lt low.isLt,
    Nat.shiftLeft_eq, stepValue]
  omega

theorem toNat_stepHigh_lt (v : Step) : (stepHigh v).toNat < 16 := by
  have := v.isLt
  rw [toNat_stepHigh]
  omega

/-- Settles O16: the numbers of the bytes of a step and of the step of two bytes. -/
theorem stepPairBytes : Obligations.StepPairBytes :=
  ⟨fun p => ⟨toNat_stepLow p.on, toNat_stepHigh p.on, toNat_stepLow p.off, toNat_stepHigh p.off,
      toNat_stepHigh_lt p.on, toNat_stepHigh_lt p.off⟩,
    fun w => ⟨toNat_joinStep w.onLow w.onHigh, toNat_joinStep w.offLow w.offHigh⟩⟩

theorem joinStep_stepLow_stepHigh (v : Step) : joinStep (stepLow v) (stepHigh v) = v := by
  have := v.isLt
  refine BitVec.eq_of_toNat_eq ?_
  rw [toNat_joinStep, stepValue, toNat_stepLow, toNat_stepHigh]
  omega

theorem stepLow_joinStep (low high : Byte) : stepLow (joinStep low high) = low := by
  have := low.isLt
  refine BitVec.eq_of_toNat_eq ?_
  rw [toNat_stepLow, toNat_joinStep, stepValue]
  omega

theorem stepHigh_joinStep (low high : Byte) : stepHigh (joinStep low high) = high &&& 0x0F := by
  have := low.isLt
  refine BitVec.eq_of_toNat_eq ?_
  rw [toNat_stepHigh, toNat_joinStep, stepValue, toNat_and_lowNibble]
  omega

/-- A mask keeps a word exactly when it has no bit outside the mask. -/
theorem and_eq_self_iff_and_not_eq_zero {n : Nat} (b m : BitVec n) : b &&& m = b ↔ b &&& ~~~m = 0 := by
  simp only [BitVec.eq_of_getLsbD_eq_iff]
  refine forall₂_congr fun i hi => ?_
  rw [BitVec.getLsbD_and, BitVec.getLsbD_and, BitVec.getLsbD_not]
  cases b.getLsbD i <;> simp [hi]

/-- A byte whose high nibble is masked is that byte exactly when the nibble is clear. -/
theorem and_lowNibble_eq_self_iff (high : Byte) : high &&& 0x0F = high ↔ high &&& 0xF0 = 0 :=
  and_eq_self_iff_and_not_eq_zero high 0x0F

theorem encodeStepPair_decodeStepPair (w : Window) :
    encodeStepPair (decodeStepPair w) =
      ⟨w.onLow, w.onHigh &&& 0x0F, w.offLow, w.offHigh &&& 0x0F⟩ := by
  simp only [encodeStepPair, decodeStepPair, stepLow_joinStep, stepHigh_joinStep]

/-- Settles O17: a step is its two bytes joined, and joining two bytes forgets the high nibble alone. -/
theorem stepPairRoundTrip : Obligations.StepPairRoundTrip := by
  refine ⟨fun p => ?_, fun w => ?_, encodeStepPair_decodeStepPair⟩
  · rw [encodeStepPair, decodeStepPair, joinStep_stepLow_stepHigh, joinStep_stepLow_stepHigh]
  · rw [encodeStepPair_decodeStepPair, ← and_lowNibble_eq_self_iff, ← and_lowNibble_eq_self_iff]
    obtain ⟨onLow, onHigh, offLow, offHigh⟩ := w
    simp only [Window.mk.injEq, true_and]

end Sys2Proof.Proofs

namespace Sys2Proof.Proofs

open Sys2Proof.Machine Sys2Proof.Laws

/-! ### Rounding (R125) -/

theorem breakTie_cases (tie : TieRule) (q : Nat) : breakTie tie q = q ∨ breakTie tie q = q + 1 := by
  cases tie with
  | halfAwayFromZero => exact .inr rfl
  | halfTowardZero => exact .inl rfl
  | halfToEven => exact ite_eq_or_eq ..
  | halfToOdd => exact (ite_eq_or_eq ..).symm

/-- The rounded quotient is the quotient while the remainder is at most half, and its successor while it
is at least half. -/
theorem roundQuot_cases (tie : TieRule) (num den : Nat) :
    (roundQuot tie num den = num / den ∧ 2 * (num % den) ≤ den) ∨
    (roundQuot tie num den = num / den + 1 ∧ den ≤ 2 * (num % den)) := by
  unfold roundQuot
  dsimp only
  split
  · exact .inl ⟨rfl, by omega⟩
  · split
    · exact .inr ⟨rfl, by omega⟩
    · exact (breakTie_cases tie _).imp (⟨·, by omega⟩) (⟨·, by omega⟩)

/-- No rounded quotient is farther than 1/2 from the quotient (R125). -/
theorem roundQuot_nearest (tie : TieRule) (num : Nat) {den : Nat} (hd : 0 < den) :
    2 * (roundQuot tie num den * den) ≤ 2 * num + den ∧
      2 * num ≤ 2 * (roundQuot tie num den * den) + den := by
  have hr := Nat.mod_lt num hd
  have hq := Nat.div_add_mod' num den
  obtain ⟨h, hle⟩ | ⟨h, hle⟩ := roundQuot_cases tie num den <;> rw [h]
  · omega
  · rw [Nat.add_mul]
    omega

/-- The integer nearest to the quotient, as a bound on the distance (R125). -/
theorem two_mul_abs_roundQuot_sub_le (tie : TieRule) (num : Nat) {den : Nat} (hd : 0 < den) :
    2 * |((roundQuot tie num den * den : Nat) : Int) - num| ≤ den := by
  obtain ⟨hlo, hhi⟩ := roundQuot_nearest tie num hd
  obtain ⟨h, -⟩ | ⟨h, -⟩ := abs_cases (((roundQuot tie num den * den : Nat) : Int) - num) <;>
    rw [h] <;> omega

theorem floor_add_half_eq {num den k : Nat} (hlo : 2 * (k * den) ≤ 2 * num + den)
    (hhi : 2 * num < 2 * (k * den) + den) : (2 * num + den) / (2 * den) = k := by
  refine Nat.div_eq_of_lt_le ?_ ?_ <;> rw [Nat.mul_left_comm]
  · exact hlo
  · rw [Nat.add_one_mul k]
    omega

/-- Where a tie, if there is one, goes up, the rounded quotient is `floor(num / den + 1/2)` (R125). -/
theorem roundQuot_eq_floor {tie : TieRule} {num den : Nat} (hd : 0 < den)
    (ht : 2 * (num % den) = den → tie = .halfAwayFromZero) :
    roundQuot tie num den = (2 * num + den) / (2 * den) := by
  have hr := Nat.mod_lt num hd
  have hq := Nat.div_add_mod' num den
  obtain ⟨h, hle⟩ | ⟨h, hge⟩ := roundQuot_cases tie num den
  · have hlt : 2 * (num % den) < den := by
      refine lt_of_le_of_ne hle fun he => ?_
      obtain rfl := ht he
      simp [roundQuot, he, breakTie] at h
    rw [h, floor_add_half_eq (k := num / den) (by omega) (by omega)]
  · rw [h, floor_add_half_eq (k := num / den + 1)] <;> rw [Nat.add_one_mul (num / den)] <;> omega

theorem roundQuot_default (num : Nat) {den : Nat} (hd : 0 < den) :
    roundQuot Config.default.tie num den = (2 * num + den) / (2 * den) :=
  roundQuot_eq_floor hd fun _ => rfl

/-- Settles O18: the quotient and its successor, by the remainder (`roundQuot_cases`). -/
theorem roundIsNearest : Obligations.RoundIsNearest :=
  ⟨fun tie num _ hd => roundQuot_nearest tie num hd, fun num _ hd => roundQuot_default num hd⟩

/-- Subtracting 1 before rounding, where no tie is met, is subtracting it after. -/
theorem roundQuot_sub_den {tie : TieRule} {num den : Nat} (hd : 0 < den) (hle : den ≤ num)
    (ht : 2 * (num % den) ≠ den) : roundQuot tie (num - den) den = roundQuot tie num den - 1 := by
  have hmod : (num - den) % den = num % den := (Nat.mod_eq_sub_mod hle).symm
  rw [roundQuot_eq_floor hd fun h => absurd h (hmod ▸ ht), roundQuot_eq_floor hd fun h => absurd h ht,
    ← Nat.sub_mul_div (2 * num + den) (2 * den) 1]
  congr 1
  omega

/-! ### The prescale (R126, R127) -/

/-- A tie would make 2048 a divisor of 25000000. -/
theorem prescale_no_tie (f : Nat) : 2 * (25000000 % (4096 * f)) ≠ 4096 * f := by
  have h := Nat.div_add_mod 25000000 (4096 * f)
  rw [Nat.mul_assoc] at h
  omega

/-- The integer form of R126, free of the tie rule. -/
theorem prescaleOf_eq (tie : TieRule) {f : Nat} (hf : 0 < f) :
    prescaleOf tie f = (50000000 + 4096 * f) / (8192 * f) - 1 := by
  have h := roundQuot_eq_floor (tie := tie) (num := 25000000) (den := 4096 * f) (by omega)
    fun h => absurd h (prescale_no_tie f)
  rw [← Nat.mul_assoc] at h
  exact congrArg (· - 1) h

/-- Over the accepted frequencies the prescale is in 5..152 (R127). -/
theorem prescaleOf_bounds (tie : TieRule) {f : Nat} (hlo : 40 ≤ f) (hhi : f ≤ 1000) :
    5 ≤ prescaleOf tie f ∧ prescaleOf tie f ≤ 152 := by
  have hsix : 6 ≤ (50000000 + 4096 * f) / (8192 * f) := by
    rw [Nat.le_div_iff_mul_le (by omega)]
    omega
  have hlt : (50000000 + 4096 * f) / (8192 * f) < 154 := by
    rw [Nat.div_lt_iff_lt_mul (by omega)]
    omega
  rw [prescaleOf_eq tie (by omega)]
  omega

/-- A higher frequency has no larger prescale (R127). -/
theorem prescaleOf_antitone (tie : TieRule) {f g : Nat} (hf : 0 < f) (hfg : f ≤ g) :
    prescaleOf tie g ≤ prescaleOf tie f := by
  have hdiv {h : Nat} (hh : 0 < h) :
      (50000000 + 4096 * h) / (8192 * h) = (50000000 / h + 4096) / 8192 := by
    rw [Nat.mul_comm 8192, ← Nat.div_div_eq_div_mul, Nat.add_mul_div_right _ _ hh]
  have hg := hf.trans_le hfg
  rw [prescaleOf_eq tie hf, prescaleOf_eq tie hg, hdiv hf, hdiv hg]
  gcongr

theorem prescaleOf_add_one (tie : TieRule) {f : Nat} (hlo : 40 ≤ f) (hhi : f ≤ 1000) :
    prescaleOf tie f + 1 = roundQuot tie 25000000 (4096 * f) := by
  have hdef : prescaleOf tie f = roundQuot tie 25000000 (4096 * f) - 1 := rfl
  have hpos := (prescaleOf_bounds tie hlo hhi).1
  omega

/-- Settles O19: one more than the prescale is the rounded quotient, and no rounded quotient is farther
than 1/2 away; the listed values by the integer form. -/
theorem prescaleFormula : Obligations.PrescaleFormula := by
  refine ⟨fun tie f hlo hhi => ?_, fun tie => ?_⟩
  · have h := two_mul_abs_roundQuot_sub_le tie 25000000 (den := 4096 * f) (by omega)
    rw [← prescaleOf_add_one tie hlo hhi] at h
    exact_mod_cast h
  · simp only [prescaleOf_eq, Nat.reduceLT]
    decide

/-- Settles O20: without a tie the integer form holds under every rule, and 1 may be subtracted before
rounding (`roundQuot_sub_den`). -/
theorem prescaleProperties : Obligations.PrescaleProperties := by
  refine ⟨fun tie f hlo _ => prescaleOf_eq tie (by omega), fun tie f => prescaleOf_bounds tie,
    fun tie f g hlo hfg _ => prescaleOf_antitone tie (by omega) hfg, fun f _ _ => prescale_no_tie f,
    fun tie tie' f hlo _ => ?_, fun tie f hlo hhi => ?_⟩
  · rw [prescaleOf_eq tie (by omega), prescaleOf_eq tie' (by omega)]
  · exact (roundQuot_sub_den (by omega) (by omega) (prescale_no_tie f)).symm

/-! ### The duty conversions (R128, R129, R136) -/

/-- A fraction of at most 1 rounds to no more than the whole. -/
theorem roundQuot_mul_le (tie : TieRule) {num den : Nat} (m : Nat) (hd : 0 < den) (hn : num ≤ den) :
    roundQuot tie (num * m) den ≤ m := by
  have hlo := (roundQuot_nearest tie (num * m) hd).1
  have hm := Nat.mul_le_mul_right m hn
  by_contra! hlt
  have := Nat.mul_le_mul_right den hlt
  rw [Nat.succ_mul, Nat.mul_comm m den] at this
  omega

theorem toNat_off_dutyToSteps (tie : TieRule) {num den : Nat} (hd : 0 < den) (hn : num ≤ den) :
    (dutyToSteps tie num den).off.toNat = roundQuot tie (num * 4095) den :=
  Nat.mod_eq_of_lt (Nat.lt_succ_of_le (roundQuot_mul_le tie 4095 hd hn))

/-- Settles O21: at most the whole 4095 (`roundQuot_mul_le`), the step keeps the rounded product. -/
theorem dutyToStepsConversion : Obligations.DutyToStepsConversion := by
  intro tie num den hd hn
  rw [toNat_off_dutyToSteps tie hd hn]
  exact ⟨rfl, rfl, roundQuot_mul_le tie 4095 hd hn⟩

theorem toNat_off_dutyToSteps_q16 {n : Nat} (hn : n ≤ 65536) :
    (dutyToSteps Config.default.tie n 65536).off.toNat = (n * 4095 + 32768) / 65536 := by
  rw [toNat_off_dutyToSteps _ (by decide) hn, roundQuot_default _ (by decide)]
  omega

/-- Settles O22: the operand for a step `v` is `floor(v * 65536 / 4095)`. -/
theorem dutyOperandIntegerForm : Obligations.DutyOperandIntegerForm := by
  refine ⟨fun n hn => ?_, fun n hn ht => by omega, fun v => ?_⟩
  · rw [toNat_off_dutyToSteps_q16 hn, Nat.shiftRight_eq_div_pow]
  · have hv := v.isLt
    have hn : v.toNat * 65536 / 4095 ≤ 65536 := by omega
    refine ⟨_, hn, BitVec.eq_of_toNat_eq ?_⟩
    rw [toNat_off_dutyToSteps_q16 hn]
    omega

/-- The numerator is the gap between the steps, whichever is the larger (R129). -/
theorem stepsToDuty_eq (p : StepPair) :
    stepsToDuty p = (p.on.toNat - p.off.toNat) + (p.off.toNat - p.on.toNat) := by
  unfold stepsToDuty
  split
  · simp [*]
  · split <;> omega

/-- Settles O23: the gap of two steps is symmetric. -/
theorem stepsToDutyIsTheGap : Obligations.StepsToDutyIsTheGap := by
  intro p
  have hon := p.on.isLt
  have hoff := p.off.isLt
  rw [stepsToDuty_eq, stepsToDuty_eq]
  exact ⟨fun h => by rw [h]; omega, by omega, by omega, by omega, by dsimp only; omega⟩

theorem stepsToDuty_dutyToSteps (tie : TieRule) {num den : Nat} (hd : 0 < den) (hn : num ≤ den) :
    stepsToDuty (dutyToSteps tie num den) = roundQuot tie (num * 4095) den := by
  rw [stepsToDuty_eq, toNat_off_dutyToSteps tie hd hn]
  exact Nat.zero_sub _ ▸ Nat.zero_add _

/-- Settles O24: the steps' numerator is the rounded product, within 1/2 of the product. -/
theorem dutyConversionRoundTrip : Obligations.DutyConversionRoundTrip := by
  intro tie num den hd hn
  rw [stepsToDuty_dutyToSteps tie hd hn]
  exact two_mul_abs_roundQuot_sub_le tie (num * 4095) hd

end Sys2Proof.Proofs

namespace Sys2Proof.Proofs

open Sys2Proof.Machine Sys2Proof.Laws

/-! ### A command that fails on a plain store -/

/-- A command whose coming answers are `k` of a plain store and then a failure leaves in the targets what
its next `k` transactions write and what the failed one draws (R52, R65). -/
theorem Executing.fails_plain {i : Instr} {r : Residue} {also : List TargetChange}
    {more : List BusAnswer} {x : Txn} (k : Nat) {s : State} (h : Executing i s)
    (hx : (planOf s.cfg i).txns[s.seq.toNat + k]? = some x)
    (ha : s.answers = List.replicate k .plain ++ .err r also :: more) :
    ∃ t, runSteps (k + 1) s = .next t ∧ t.cfg = s.cfg ∧
      t.responses = s.responses ++ [rspWord (busStatusOf i) 0] ∧
      t.mem = Memory.applyChanges s.cfg
        (plainChanges (deviceOf i s) (((planOf s.cfg i).txns.drop s.seq.toNat).take k) ++
          x.changes (deviceOf i s) r also) s.mem := by
  induction k generalizing s with
  | zero =>
    have hs := h.step_transact hx
    rw [transact_err (s := entered i s) (nextAnswer_of_cons ha)] at hs
    exact ⟨_, runSteps_succ 0 hs, answerErr_cfg .., answerErr_responses .., answerErr_mem ..⟩
  | succ k ih =>
    obtain ⟨hk, -⟩ := List.getElem?_eq_some_iff.mp hx
    obtain ⟨y, hy⟩ := exists_txn (s := s) (i := i) (by rw [length_txns] at hk; omega)
    obtain ⟨hl, hget⟩ := List.getElem?_eq_some_iff.mp hy
    obtain ⟨b, hs⟩ : ∃ b, step s = .next (answerOk y b .new [] (entered i s)) :=
      ⟨_, (h.step_transact hy).trans
        (congrArg _ (transact_plain (s := entered i s) (nextAnswer_of_cons ha) y _))⟩
    have hq := seq_answerOk_entered hy b .new []
    obtain ⟨t, ht, hc, hr, hm⟩ := ih (executing_answerOk h y b .new [])
      (by rw [hq, answerOk_cfg, entered_cfg, Nat.add_right_comm]; exact hx)
      (by rw [answerOk_answers, entered_answers, ha]; rfl)
    refine ⟨t, (runSteps_succ _ hs).trans ht, by simpa using hc, by simpa using hr, ?_⟩
    rw [deviceOf_answerOk_entered, hq, answerOk_cfg, entered_cfg, answerOk_mem, entered_cfg,
      entered_devAddr, entered_mem, ← applyChanges_append] at hm
    rw [hm, List.drop_eq_getElem_cons hl, hget, List.take_succ_cons, ← List.append_assoc]
    rfl

@[simp] theorem applyChanges_nil (cfg : Config) (m : Memory) : Memory.applyChanges cfg [] m = m := rfl

@[simp] theorem leftBy_new (held new : Byte) : leftBy .new held new = new := rfl

/-- What a register of a device holds after a write to that device (93 U1). -/
theorem byteAt_changes_write (cfg : Config) (m : Memory) (dev : DevAddr) (reg reg' : RegNum) (v : Byte)
    (r : Residue) (also : List TargetChange) :
    Memory.byteAt cfg (Memory.applyChanges cfg ((Txn.write reg v).changes dev r also) m)
        (cellKey cfg dev reg') =
      if reg' = reg then leftBy r (Memory.byteAt cfg m (cellKey cfg dev reg)) v
      else Memory.byteAt cfg m (cellKey cfg dev reg') := by
  by_cases h : reg' = reg
  · subst h
    cases r <;>
      simp [Txn.changes, Txn.landed, Txn.sideEffects, Txn.reg, Memory.applyChanges, leftBy]
  · cases r <;>
      simp [Txn.changes, Txn.landed, Txn.sideEffects, Txn.reg, Memory.applyChanges, h,
        byteAt_store_ne, cellKey_ne h]

/-! ### `set_frequency` with a failed transaction (R163, R249) -/

theorem admitted_setFrequency {f : Nat} {s : State} (hlo : 40 ≤ f) (hhi : f ≤ 1000)
    (hp : s.phase ≠ .uninitialized) : admitted (.setFrequency f) s = true := by
  have he : (planOf s.cfg (.setFrequency f)).operandError = none := by
    simp only [planOf, setFrequencyPlan, frequencyError, Config.freqMin, Config.freqMax]
    exact if_neg (by omega)
  rw [admitted, he, Bool.and_eq_true]
  exact ⟨decide_eq_true hp, rfl⟩

theorem wellFormed_setFrequency {f : Nat} (hhi : f ≤ 1000) :
    (Instr.setFrequency f).wellFormed = true := by
  simp only [Instr.wellFormed, fitsSigned, Bool.and_eq_true, decide_eq_true_eq]
  omega

/-- The constraint of R7 on MODE1_SLEEP and MODE1_WAKE (log 9). -/
theorem sleepBit_of_wf {cfg : Config} (h : cfg.wf = true) :
    cfg.mode1Sleep[cfg.sleepBit.val] = true ∧ cfg.mode1Wake[cfg.sleepBit.val] = false := by
  simp only [Config.wf, Bool.and_eq_true, Bool.not_eq_true'] at h
  obtain ⟨⟨hsleep, -⟩, hwake⟩ := h
  exact ⟨hsleep, hwake⟩

/-- What `set_frequency` changes in the targets when its transaction `k` fails on a plain store. -/
def failedFrequencyChanges (cfg : Config) (f : Nat) (dev : DevAddr) (k : Fin 4) (r : Residue)
    (also : List TargetChange) : List TargetChange :=
  plainChanges dev ((applyFrequencyTxns cfg f).take k.val) ++
    ((applyFrequencyTxns cfg f).get k).changes dev r also

/-- Acceptance puts the command at its transaction 0, from where it fails at transaction `k`. -/
theorem setFrequency_fails {f : Nat} {s : State} {rest : List CmdWord} {k : Fin 4} {r : Residue}
    {also : List TargetChange} {more : List BusAnswer} (hlo : 40 ≤ f) (hhi : f ≤ 1000)
    (hp : s.phase ≠ .uninitialized) (hb : s.busy = false) (hu : s.undisturbed)
    (hc : s.cmdIn = encode (.setFrequency f) :: rest)
    (ha : s.answers = List.replicate k.val .plain ++ .err r also :: more) :
    ∃ t, runSteps (k.val + 2) s = .next t ∧ t.cfg = s.cfg ∧ t.responses = s.responses ++ [0x1000] ∧
      t.mem = Memory.applyChanges s.cfg (failedFrequencyChanges s.cfg f s.devAddr k r also) s.mem := by
  have hx : (applyFrequencyTxns s.cfg f)[0 + k.val]? = some ((applyFrequencyTxns s.cfg f).get k) := by
    rw [Nat.zero_add]
    exact List.getElem?_eq_getElem k.isLt
  obtain ⟨t, ht, hcfg, hr, hm⟩ := (executing_accept (wellFormed_setFrequency hhi)
    (admitted_setFrequency hlo hhi hp) hu rest).fails_plain k.val hx ha
  refine ⟨t, (runSteps_succ _ (step_accept hb hu hc)).trans ht, hcfg, ?_, hm⟩
  rw [show (0x1000 : RspWord) = rspWord .busWriteError 0 by decide]
  exact hr

/-- Settles O59: the command fails after `k` plain transactions (`setFrequency_fails`), and what it leaves
is read off its writes one by one (`byteAt_changes_write`), for each `k`. -/
theorem failedSetFrequencyLeavesAPartialMode : Obligations.FailedSetFrequencyLeavesAPartialMode := by
  rintro f s rest k r also more _ _ _ _ hlo hhi hp hb hu hwf hc ha rfl rfl rfl rfl
  obtain ⟨t, ht, hcfg, hr, hm⟩ := setFrequency_fails hlo hhi hp hb hu hc ha
  obtain ⟨hsleep, hwake⟩ := sleepBit_of_wf hwf
  refine ⟨t, ht, hr, ?_⟩
  rw [← prescaleOf_eq s.cfg.tie (by omega)]
  simp only [asleep, targetByte, hcfg, hm, failedFrequencyChanges, applyChanges_append]
  match k with
  | 0 | 1 | 2 | 3 =>
    simp [plainChanges, applyFrequencyTxns, applyChanges_append, byteAt_changes_write,
      Config.regMode1, Config.regPrescale, Config.regMode2, Config.mode2Totem, hsleep, hwake]

end Sys2Proof.Proofs

namespace Sys2Proof.Proofs

open Sys2Proof.Machine Sys2Proof.Laws

/-! ### The stages of the first `construct` (R161, R243) -/

/-- In Uninitialized only `construct` passes the checks (R160). -/
theorem eq_construct_of_admitted {i : Instr} {s : State} (ha : admitted i s = true)
    (hp : s.phase = .uninitialized) : ∃ dev, i = .construct dev := by
  have hg := gateOpen_of_admitted ha
  rw [hp] at hg
  cases i with
  | construct dev => exact ⟨dev, rfl⟩
  | _ => cases hg

/-- The block is at transaction 1 of a `construct` of `dev`, its second write. -/
structure AtSecondWrite (dev : DevAddr) (s : State) : Prop where
  busy : s.busy = true
  decoded : decode s.cmd = .ok (.construct dev)
  phase : s.phase = .uninitialized
  seq : s.seq = 1

/-- How far the block has come with the two transactions of R243: none made and no `construct` past its
first; the first done and the second at hand; or the first failed, or both made. -/
inductive ConstructStage (s : State) : Prop
  | notBegun (ht : blockTrace s = []) (hp : s.phase = .uninitialized)
      (hq : s.busy = true → ∀ dev, decode s.cmd = .ok (.construct dev) → s.seq = 0)
  | inside {r : BusRecord} (ht : blockTrace s = [r])
      (hx : r.txn = .write Config.regMode1 s.cfg.mode1Normal) (h : AtSecondWrite r.dev s)
  | past {r : BusRecord} {rest : List BusRecord} (ht : blockTrace s = r :: rest)
      (hx : r.txn = .write Config.regMode1 s.cfg.mode1Normal)
      (h : r.outcome = .ok → ∃ q more, rest = q :: more ∧ q.dev = r.dev ∧
        q.txn = .write Config.regMode2 Config.mode2Totem)

theorem startsWithConstruct_cons (cfg : Config) (r : BusRecord) (rest : List BusRecord) :
    startsWithConstruct cfg (r :: rest) = true ↔
      r.txn = .write Config.regMode1 cfg.mode1Normal ∧
        (r.outcome = .ok → rest = [] ∨ ∃ q more, rest = q :: more ∧ q.dev = r.dev ∧
          q.txn = .write Config.regMode2 Config.mode2Totem) := by
  cases rest with
  | nil => simp [startsWithConstruct]
  | cons q more => simp [startsWithConstruct, ← imp_iff_not_or]

theorem constructPlace_of_nil {s : State} (ht : blockTrace s = []) :
    constructPlace s = true ↔ s.phase = .uninitialized ∧
      (s.busy = true → ∀ dev, decode s.cmd = .ok (.construct dev) → s.seq = 0) := by
  unfold constructPlace
  rw [ht]
  cases hb : s.busy with
  | false => simp
  | true =>
    dsimp only
    split
    next hd => simp [hd]
    next hd => simpa using fun _ dev h => (hd dev h).elim

theorem constructPlace_of_singleton {s : State} {r : BusRecord} (ht : blockTrace s = [r]) :
    constructPlace s = true ↔ (r.outcome = .ok → AtSecondWrite r.dev s) := by
  have hs : AtSecondWrite r.dev s ↔
      ((s.busy = true ∧ s.seq = 1) ∧ s.phase = .uninitialized) ∧
        decode s.cmd = .ok (.construct r.dev) :=
    ⟨fun h => ⟨⟨⟨h.busy, h.seq⟩, h.phase⟩, h.decoded⟩,
      fun ⟨⟨⟨hb, hq⟩, hp⟩, hd⟩ => ⟨hb, hd, hp, hq⟩⟩
  unfold constructPlace
  rw [ht, hs]
  dsimp only
  split
  next dev hd => simp [hd, ← imp_iff_not_or]
  next hd =>
    have hne : decode s.cmd ≠ .ok (.construct r.dev) := hd r.dev
    simp [hne]

/-- The property of R243 with its place in `construct` is one of the three stages. -/
theorem constructFirst_iff (s : State) : s.ConstructFirst ↔ ConstructStage s := by
  constructor
  · rintro ⟨hs, hp⟩
    cases ht : blockTrace s with
    | nil =>
      obtain ⟨hp, hq⟩ := (constructPlace_of_nil ht).mp hp
      exact .notBegun ht hp hq
    | cons r rest =>
      obtain ⟨hx, h⟩ := (startsWithConstruct_cons s.cfg r rest).mp (ht ▸ hs)
      by_cases hin : rest = [] ∧ r.outcome = .ok
      · obtain ⟨rfl, ho⟩ := hin
        exact .inside ht hx ((constructPlace_of_singleton ht).mp hp ho)
      · exact .past ht hx fun ho => (h ho).resolve_left fun hr => hin ⟨hr, ho⟩
  · rintro (⟨ht, hp, hq⟩ | ⟨ht, hx, h⟩ | @⟨r, rest, ht, hx, h⟩)
    · exact ⟨by rw [ht]; rfl, (constructPlace_of_nil ht).mpr ⟨hp, hq⟩⟩
    · exact ⟨ht ▸ (startsWithConstruct_cons ..).mpr ⟨hx, fun _ => .inl rfl⟩,
        (constructPlace_of_singleton ht).mpr fun _ => h⟩
    · refine ⟨ht ▸ (startsWithConstruct_cons ..).mpr ⟨hx, fun ho => .inr (h ho)⟩, ?_⟩
      cases rest with
      | nil => exact (constructPlace_of_singleton ht).mpr fun ho => by simpa using h ho
      | cons q more => rw [constructPlace, ht]

/-! ### A move from each stage -/

theorem blockTrace_append {s t : State} {l : List BusRecord} {d : DevAddr} {x : Txn} {o : BusOutcome}
    (ht : blockTrace s = l) (h : t.trace = s.trace ++ [⟨.block, d, x, o⟩]) :
    blockTrace t = l ++ [⟨.block, d, x, o⟩] :=
  (blockTrace_of_block h).trans (by rw [ht])

/-- A step of a command while the block has made no transaction is no transaction or `construct`'s
first. -/
theorem CommandStep.constructStage_of_notBegun {i : Instr} {s t : State} (h : CommandStep i s t)
    (hb : s.busy = true) (hd : decode s.cmd = .ok i) (ht : blockTrace s = [])
    (hp : s.phase = .uninitialized) (hq : ∀ dev, decode s.cmd = .ok (.construct dev) → s.seq = 0) :
    ConstructStage t := by
  have first {x : Txn} (ha : admitted i s = true)
      (hx : (planOf s.cfg i).txns[s.seq.toNat]? = some x) :
      (∃ dev, i = .construct dev) ∧ s.seq = 0 ∧ x = .write Config.regMode1 s.cfg.mode1Normal := by
    obtain ⟨dev, rfl⟩ := eq_construct_of_admitted ha hp
    rw [hq dev hd] at hx
    cases hx
    exact ⟨⟨dev, rfl⟩, hq dev hd, rfl⟩
  cases h with
  | refused hg => exact .notBegun ht hp nofun
  | rejected hg he => exact .notBegun ht hp nofun
  | waiting ha => exact .notBegun ht hp fun _ => hq
  | done ha hx b r also =>
    obtain ⟨⟨dev, rfl⟩, hz, rfl⟩ := first ha hx
    exact .inside (blockTrace_append (s := s) ht (answerOk_trace ..)) rfl
      ⟨hb, hd, hp, by rw [answerOk_seq, entered_seq, hz]; rfl⟩
  | failed ha hx r also =>
    obtain ⟨-, -, rfl⟩ := first ha hx
    exact .past (blockTrace_append (s := s) ht (answerErr_trace ..)) rfl nofun
  | finished ha hx =>
    obtain ⟨dev, rfl⟩ := eq_construct_of_admitted ha hp
    rw [hq dev hd] at hx
    cases hx

/-- A step of `construct` at its second write makes it or waits for the bus. -/
theorem CommandStep.constructStage_of_inside {s t : State} {r : BusRecord}
    (h : CommandStep (.construct r.dev) s t) (hs : AtSecondWrite r.dev s)
    (ht : blockTrace s = [r]) (hx : r.txn = .write Config.regMode1 s.cfg.mode1Normal) :
    ConstructStage t := by
  have second {o : BusOutcome} {y : Txn}
      (hy : (planOf s.cfg (.construct r.dev)).txns[s.seq.toNat]? = some y)
      (hc : t.cfg = s.cfg) (htr : t.trace = s.trace ++ [⟨.block, r.dev, y, o⟩]) :
      ConstructStage t := by
    rw [hs.seq] at hy
    cases hy
    exact .past (blockTrace_append ht htr) (by rw [hc, hx])
      fun _ => ⟨_, [], rfl, rfl, rfl⟩
  cases h with
  | refused hg => simp [gateOpen, hs.phase] at hg
  | rejected hg he => cases he
  | waiting ha => exact .inside ht hx ⟨hs.busy, hs.decoded, hs.phase, hs.seq⟩
  | done ha hy b r' also => exact second hy (answerOk_cfg ..) (answerOk_trace ..)
  | failed ha hy r' also => exact second hy (answerErr_cfg ..) (answerErr_trace ..)
  | finished ha hy =>
    rw [hs.seq] at hy
    cases hy

/-- Another master's move changes neither the block nor its transactions. -/
theorem ConstructStage.otherMove {s : State} (h : ConstructStage s) (d : DevAddr) (x : Txn) :
    ConstructStage (otherMove d x s) := by
  have htr := blockTrace_otherMove d x s
  obtain ⟨ht, hp, hq⟩ | ⟨ht, hx, hb, hd, hp, hq⟩ | ⟨ht, hx, h⟩ := h
  · exact .notBegun (htr.trans ht) (by simpa using hp) (by simpa using hq)
  · exact .inside (htr.trans ht) (by simpa using hx)
      ⟨by simpa using hb, by simpa using hd, by simpa using hp, by simpa using hq⟩
  · exact .past (htr.trans ht) (by simpa using hx) h

/-- No move of the block takes back the first two transactions. -/
theorem ConstructStage.blockStep {s t : State} (h : ConstructStage s) (hs : blockStep s = .next t) :
    ConstructStage t := by
  obtain ⟨ht, hp, hq⟩ | ⟨ht, hx, ha⟩ | ⟨ht, hx, h⟩ := h
  · obtain ⟨hb, -, rfl⟩ | ⟨hb, w, rest, -, rfl⟩ | ⟨hb, -, rfl⟩ | ⟨hb, i, hd, he⟩ :=
      blockStep_cases hs
    · exact .notBegun ht hp hq
    · exact .notBegun ht hp fun _ _ _ => rfl
    · exact .notBegun ht hp nofun
    · exact (exec_commandStep he).constructStage_of_notBegun hb hd ht hp (hq hb)
  · rw [blockStep_of_decode ha.busy ha.decoded] at hs
    exact (exec_commandStep hs).constructStage_of_inside ha ht hx
  · have hc := (blockStep_move hs).cfg
    obtain htr | ⟨d, x, o, -, htr⟩ := (blockStep_move hs).blockTrace_cases
    · exact .past (htr.trans ht) (hc ▸ hx) h
    · refine .past (rest := _ ++ [_]) (htr.trans (by rw [ht]; rfl)) (hc ▸ hx) fun ho => ?_
      obtain ⟨q, more, rfl, hq⟩ := h ho
      exact ⟨q, more ++ [_], rfl, hq⟩

/-- Every step but the reset input keeps the property of R243. -/
theorem constructFirst_step {s t : State} (h : s.ConstructFirst)
    (hr : ∀ tm, nextEvent s ≠ .reset tm) (hs : step s = .next t) : t.ConstructFirst := by
  have hpop : ConstructStage (popAgenda s) := (constructFirst_iff _).mp ⟨h.starts, h.place⟩
  rw [constructFirst_iff]
  obtain ⟨-, hb⟩ | ⟨d, x, -, rfl⟩ | ⟨tm, he, -⟩ := step_cases hs
  · exact hpop.blockStep hb
  · exact hpop.otherMove d x
  · exact absurd he (hr tm)

/-! ### Runs without a reset -/

@[simp] theorem abandonTxn_agenda (l : Bool) (s : State) : (abandonTxn l s).agenda = s.agenda := by
  obtain ⟨-, h⟩ | ⟨d, x, r, -, -, -, h⟩ := abandonTxn_cases l s <;> simp [h]

@[simp] theorem resetInput_agenda (tm : ResetTiming) (s : State) :
    (resetInput tm s).agenda = s.agenda := by
  cases tm <;> simp [resetInput]

/-- Every step, whoever moves, uses up one entry of the agenda (log 2). -/
theorem step_agenda {s t : State} (h : step s = .next t) : t.agenda = s.agenda.tail := by
  rw [← popAgenda_agenda]
  have hm := step_move h
  generalize nextEvent s = e at hm
  cases hm with
  | command hb hd hc => exact hc.agenda
  | _ => simp

/-- What every step keeps holds at the end of every run from a state where it holds. -/
theorem runSteps_induction {P : State → Prop} (hstep : ∀ s t, P s → step s = .next t → P t)
    (n : Nat) {s t : State} (hs : P s) (h : runSteps n s = .next t) : P t := by
  induction n generalizing s with
  | zero =>
    cases h
    exact hs
  | succ n ih =>
    obtain ⟨u, hu⟩ := step_next s
    exact ih (hstep s u hs hu) (runSteps_succ n hu ▸ h)

theorem nextEvent_mem (s : State) : nextEvent s = .blockMove ∨ nextEvent s ∈ s.agenda := by
  unfold nextEvent
  cases s.agenda with
  | nil => exact .inl rfl
  | cons e l => exact .inr List.mem_cons_self

/-- The property of R243 on a machine with the parameters `cfg` and no reset to come. -/
structure ConstructFirstRun (cfg : Config) (s : State) : Prop where
  cfg : s.cfg = cfg
  noReset : ∀ e ∈ s.agenda, ∀ tm, e ≠ .reset tm
  first : s.ConstructFirst

theorem ConstructFirstRun.step {cfg : Config} {s t : State} (h : ConstructFirstRun cfg s)
    (hs : step s = .next t) : ConstructFirstRun cfg t where
  cfg := (step_move hs).cfg.trans h.cfg
  noReset e he := h.noReset e (List.mem_of_mem_tail (step_agenda hs ▸ he))
  first := constructFirst_step h.first (fun tm he => by
    obtain hb | hm := nextEvent_mem s
    · cases he.symm.trans hb
    · exact h.noReset _ hm tm he) hs

theorem constructFirst_reset (cfg : Config) (words : List CmdWord) (answers : List BusAnswer)
    (agenda : List Event) :
    { State.reset with cfg := cfg, cmdIn := words, answers := answers,
                       agenda := agenda }.ConstructFirst :=
  ⟨rfl, rfl⟩

/-- The block's own transactions are recorded as the block's. -/
theorem master_of_mem_blockTrace {s : State} {r : BusRecord} (h : r ∈ blockTrace s) :
    r.master = .block := by
  simpa using (List.mem_filter.mp h).2

/-- Settles O51: the three stages of `construct` (`constructFirst_iff`) are kept by every move but the
reset input, and each of them shows the transactions of R243. -/
theorem constructTransactsFirst : Obligations.ConstructTransactsFirst := by
  refine ⟨constructFirst_reset, fun s t => constructFirst_step,
    fun n cfg words answers agenda t hr h => ?_⟩
  obtain ⟨rfl, -, hf⟩ := runSteps_induction (fun _ _ => ConstructFirstRun.step) n
    (⟨rfl, hr, constructFirst_reset cfg words answers agenda⟩ : ConstructFirstRun cfg _) h
  cases ht : blockTrace t with
  | nil => exact .inl rfl
  | cons r rest =>
    obtain ⟨hx, ho⟩ := (startsWithConstruct_cons t.cfg r rest).mp (ht ▸ hf.starts)
    have hm (q : BusRecord) (hq : q ∈ r :: rest) : q.master = .block :=
      master_of_mem_blockTrace (ht ▸ hq)
    obtain ⟨m, dev, x, o⟩ := r
    obtain rfl : m = .block := hm _ List.mem_cons_self
    obtain rfl : x = .write 0x00 t.cfg.mode1Normal := hx
    refine .inr ⟨dev, o, rest, rfl, fun hok => (ho hok).imp_right ?_⟩
    rintro ⟨⟨m', dev', x', o'⟩, more, rfl, rfl, rfl⟩
    obtain rfl : m' = .block := hm _ (List.mem_cons_of_mem _ List.mem_cons_self)
    exact ⟨o', more, rfl⟩

end Sys2Proof.Proofs

namespace Sys2Proof.Proofs

open Sys2Proof.Machine Sys2Proof.Laws

/-! ### Acceptance (R160, R23) -/

@[simp] theorem abandonTxn_cmdIn (l : Bool) (s : State) : (abandonTxn l s).cmdIn = s.cmdIn := by
  obtain ⟨-, h⟩ | ⟨d, x, r, -, -, -, h⟩ := abandonTxn_cases l s <;> simp [h]

@[simp] theorem resetInput_cmdIn (tm : ResetTiming) (s : State) :
    (resetInput tm s).cmdIn = s.cmdIn := by
  cases tm <;> simp [resetInput]

/-- No move of any agent takes a word from the port of a busy block. -/
theorem Move.cmdIn {s t : State} {e : Event} (h : Move s e t) (hb : s.busy = true) :
    t.cmdIn = s.cmdIn := by
  cases h with
  | idle hi => rfl
  | accepted hi w rest => cases hi.symm.trans hb
  | illegal _ => rfl
  | command _ hd hc => exact hc.cmdIn
  | other d x => exact otherMove_cmdIn s d x
  | reset tm => exact resetInput_cmdIn tm s

/-- Settles O9: the idle block's move by its port (`blockStep_accept`, `blockStep_idle`), a busy one's by
the moves of all agents (`Move.cmdIn`). -/
theorem commandIsAcceptedOnlyWhileIdle : Obligations.CommandIsAcceptedOnlyWhileIdle := by
  refine ⟨fun s w rest hb he hc => ?_, fun s hb he hc => ?_, fun s t hb h => (step_move h).cmdIn hb⟩
  · rw [step_of_blockMove he]
    exact blockStep_accept (s := popAgenda s) hb hc
  · rw [step_of_blockMove he]
    exact blockStep_idle (s := popAgenda s) hb hc

/-! ### The statuses of a command (R210) -/

theorem notPermitted_mem_statusesOf (i : Instr) : .notPermitted ∈ statusesOf i := by
  cases i <;> simp [statusesOf]

theorem busStatusOf_mem_statusesOf (i : Instr) : busStatusOf i ∈ statusesOf i := by
  cases i <;> simp [statusesOf, busStatusOf]

theorem ok_mem_statusesOf (i : Instr) : .ok ∈ statusesOf i := by
  cases i <;> simp [statusesOf]

theorem operandError_mem_statusesOf {cfg : Config} {i : Instr} {st : Status}
    (h : (planOf cfg i).operandError = some st) : st ∈ statusesOf i := by
  obtain ⟨rfl, _, rfl, -⟩ | ⟨rfl, _, _, _, rfl, -⟩ | ⟨rfl, _, _, rfl, -⟩ := operandError_cases h <;>
    simp [statusesOf]

/-- Settles O40: a step of a command answers nothing, or with the status of its gate, its operands, its
bus or OK. -/
theorem statusMatrix : Obligations.StatusMatrix := by
  intro i s t he
  cases exec_commandStep he with
  | refused hg => exact .inr ⟨_, notPermitted_mem_statusesOf i, 0, rfl⟩
  | rejected hg hst => exact .inr ⟨_, operandError_mem_statusesOf hst, 0, rfl⟩
  | done ha hx b r also => exact .inl (answerOk_responses ..)
  | failed ha hx r also =>
    rw [busError_planOf]
    exact .inr ⟨_, busStatusOf_mem_statusesOf i, 0, answerErr_responses ..⟩
  | waiting ha => exact .inl rfl
  | finished ha hx => exact .inr ⟨_, ok_mem_statusesOf i, finishOf_responses i (entered i s)⟩

/-! ### Checks before I/O (R168) -/

/-- A command whose operands are rejected leaves blk.dev_addr: `construct` has no operand to reject. -/
theorem entered_of_operandError {i : Instr} {s : State} {st : Status}
    (h : (planOf s.cfg i).operandError = some st) : entered i s = s := by
  obtain ⟨-, _, rfl, -⟩ | ⟨-, _, _, _, rfl, -⟩ | ⟨-, _, _, rfl, -⟩ := operandError_cases h <;> rfl

/-- A command that has begun is admitted, so one that is not has made no transaction. -/
theorem seq_eq_zero_of_not_admitted {i : Instr} {s : State} (hb : s.busy = true)
    (hd : decode s.cmd = .ok i) (ha : admitted i s = false) (h : sequencerOk s = true) : s.seq = 0 :=
  ((sequencerOk_iff hb hd).mp h).2.resolve_right fun ⟨ha', _⟩ => by simp [ha] at ha'

theorem not_rejection_ok : (statusCode .ok).toNat ∉ [3, 4, 5, 8, 9] := by decide

theorem not_rejection_busStatusOf (i : Instr) :
    (statusCode (busStatusOf i)).toNat ∉ [3, 4, 5, 8, 9] := by
  cases i <;> simp [busStatusOf, statusCode]

theorem response_of_append {l : List RspWord} {w : RspWord} {st : Status} {r : BitVec 12}
    (h : l ++ [rspWord st r] = l ++ [w]) : w = rspWord st r := by
  simpa using h.symm

/-- A step of a command that answers with the status of a check before I/O only answers (R168). -/
theorem CommandStep.validation {i : Instr} {s t : State} {w : RspWord} (h : CommandStep i s t)
    (hb : s.busy = true) (hd : decode s.cmd = .ok i) (hr : t.responses = s.responses ++ [w])
    (hw : (rspStatus w).toNat ∈ [3, 4, 5, 8, 9]) :
    t = afterResponse w s ∧ (sequencerOk s = true → s.seq = 0) := by
  cases h with
  | refused hg =>
    obtain rfl := response_of_append hr
    exact ⟨rfl, seq_eq_zero_of_not_admitted hb hd (by simp [admitted, hg])⟩
  | rejected hg he =>
    obtain rfl := response_of_append hr
    exact ⟨by rw [entered_of_operandError he]; rfl,
      seq_eq_zero_of_not_admitted hb hd (by simp [admitted, he])⟩
  | done ha hx b r also => simp at hr
  | waiting ha => simp at hr
  | failed ha hx r also =>
    rw [answerErr_responses, busError_planOf] at hr
    obtain rfl := response_of_append hr
    rw [rspStatus_rspWord] at hw
    exact absurd hw (not_rejection_busStatusOf i)
  | finished ha hx =>
    obtain ⟨r, hok⟩ := finishOf_responses i (entered i s)
    obtain rfl := response_of_append (hok.symm.trans hr)
    rw [rspStatus_rspWord] at hw
    exact absurd hw not_rejection_ok

/-- Settles O39: a word refused by the decoder, the gate or the operand check is answered from the state as
it is; every other response has OK or a bus status (`CommandStep.validation`). -/
theorem validationPrecedesEveryEffect : Obligations.ValidationPrecedesEveryEffect := by
  intro s t w h hr hw
  obtain ⟨-, -, rfl⟩ | ⟨-, v, rest, -, rfl⟩ | ⟨hb, ⟨e, hd⟩, rfl⟩ | ⟨hb, i, hd, he⟩ :=
    blockStep_cases h
  · simp at hr
  · simp at hr
  · obtain rfl := response_of_append hr
    exact ⟨rfl, by simp [sequencerOk, hb, hd]⟩
  · exact (exec_commandStep he).validation hb hd hr hw

/-! ### The targets' registers (R206, R59) -/

/-- A step of a command records nothing, or its next transaction, to its device. -/
theorem CommandStep.trace_cases {i : Instr} {s t : State} (h : CommandStep i s t) :
    t.trace = s.trace ∨
      ∃ x o, nextTxnOf i s = some x ∧ t.trace = s.trace ++ [⟨.block, deviceOf i s, x, o⟩] := by
  cases h with
  | done ha hx b r also =>
    exact .inr ⟨_, _, by rwa [nextTxnOf, if_pos ha], answerOk_trace ..⟩
  | failed ha hx r also =>
    exact .inr ⟨_, _, by rwa [nextTxnOf, if_pos ha], answerErr_trace ..⟩
  | _ => exact .inl (by simp)

/-- A step of a command changes no register that its next transaction does not reach. -/
theorem targetByte_exec {i : Instr} {s t : State} (he : exec i s = .next t) {dev : DevAddr}
    {reg : RegNum}
    (hk : ∀ x, nextTxnOf i s = some x →
      cellKey s.cfg (deviceOf i s) x.reg ≠ cellKey s.cfg dev reg ∧
      ∀ c ∈ x.sideEffects (nextAnswer s).also, cellKey s.cfg c.dev c.reg ≠ cellKey s.cfg dev reg) :
    targetByte t dev reg = targetByte s dev reg := by
  refine (exec_shown he).targetByte_eq (exec_commandStep he).cfg fun recs htr q hq => ?_
  obtain ht | ⟨x, o, hx, ht⟩ := (exec_commandStep he).trace_cases
  · have : recs = [] := by simpa using htr.symm.trans ht
    simp [this] at hq
  · obtain rfl : recs = [⟨.block, deviceOf i s, x, o⟩] := by simpa using htr.symm.trans ht
    obtain rfl := List.mem_singleton.mp hq
    exact hk x hx

/-- A command other than `read_duty_cycle` has a write to make, which has no side effects. -/
theorem sideEffects_of_nextTxnOf {i : Instr} {s : State} {x : Txn} (hi : ∀ ch, i ≠ .readDutyCycle ch)
    (hx : nextTxnOf i s = some x) (also : List TargetChange) : x.sideEffects also = [] := by
  unfold nextTxnOf at hx
  split at hx
  · obtain ⟨reg, v, rfl⟩ := txn_isWrite hi (List.mem_of_getElem? hx)
    rfl
  · cases hx

/-- A read on a plain store changes no register. -/
theorem readDutyCycle_mem {ch : Channel} {s t : State} (hn : nextAnswer s = .plain)
    (h : exec (.readDutyCycle ch) s = .next t) : t.mem = s.mem := by
  obtain ⟨-, rfl⟩ | ⟨-, st, -, rfl⟩ | ⟨-, x, hx, rfl⟩ | ⟨-, -, rfl⟩ := exec_cases h
  · rfl
  · rfl
  · obtain ⟨k, -, rfl⟩ := mem_readChannelTxns (List.mem_of_getElem? hx)
    rw [transact_plain (s := entered _ s) hn]
    rfl
  · rfl

/-- Settles O43: a step of a command reaches the targets by its next transaction alone
(`targetByte_exec`); a write has no side effects, a plain read none at all. -/
theorem commandsFrameTheTargets : Obligations.CommandsFrameTheTargets := by
  refine ⟨fun i s t he dev reg hk => targetByte_exec he hk, fun i s t hi he dev reg hk => ?_,
    fun ch s t hn he dev reg => ?_⟩
  · refine targetByte_exec he fun x hx => ⟨hk x hx, ?_⟩
    simp [sideEffects_of_nextTxnOf hi hx]
  · exact targetByte_congr (exec_commandStep he).cfg (readDutyCycle_mem hn he) dev reg

end Sys2Proof.Proofs

namespace Sys2Proof.Proofs

open Sys2Proof.Machine Sys2Proof.Laws

/-! ### A step of a command on a plain store -/

/-- A write that a plain store takes is the completed write of R24. -/
theorem answerOk_write (reg : RegNum) (v b : Byte) (s : State) :
    answerOk (.write reg v) b .new [] s = afterWrite reg v s := rfl

/-- A read that a plain store answers is the completed read of R134. -/
theorem answerOk_read (reg : RegNum) (b : Byte) (s : State) :
    answerOk (.read reg) b .new [] s = afterRead reg (byteIndex s.seq) b s := rfl

theorem exec_write_plain {i : Instr} {s : State} {n : BitVec 7} {reg : RegNum} {v : Byte}
    (ha : admitted i s = true) (hx : (planOf s.cfg i).txns[n.toNat]? = some (.write reg v))
    (hq : s.seq = n) (hn : nextAnswer s = .plain) :
    exec i s = .next (afterWrite reg v (entered i s)) := by
  rw [exec_txn ha (hq ▸ hx), transact_plain (s := entered i s) hn, answerOk_write]

theorem exec_read_plain {i : Instr} {s : State} {n : BitVec 7} {reg : RegNum}
    (ha : admitted i s = true) (hx : (planOf s.cfg i).txns[n.toNat]? = some (.read reg))
    (hq : s.seq = n) (hn : nextAnswer s = .plain) :
    exec i s = .next (afterRead reg (byteIndex n)
      (targetByte s (deviceOf i s) reg) (entered i s)) := by
  rw [exec_txn ha (hq ▸ hx), transact_plain (s := entered i s) hn, answerOk_read, ← hq]
  rfl

theorem exec_finish_at {i : Instr} {s : State} {n : BitVec 7} (ha : admitted i s = true)
    (hx : (planOf s.cfg i).txns[n.toNat]? = none) (hq : s.seq = n) :
    exec i s = .next (finishOf i (entered i s)) :=
  exec_finish ha (hq ▸ hx)

/-- A command without operand checks is admitted when its gate is open. -/
theorem admitted_of_gate {i : Instr} {s : State} (hg : gateOpen i s.phase = true)
    (he : (planOf s.cfg i).operandError = none) : admitted i s = true := by
  rw [admitted, hg, he]
  rfl

/-- The phase after an OK channel write (R217). -/
theorem afterChannelWrite_eq (p : Phase) :
    p.afterChannelWrite = if p = .configured then .active else p := by
  cases p <;> rfl

/-- The OK end of a channel write (R164). -/
theorem finishChannelWrite_eq (s : State) :
    finishChannelWrite s = afterResponse 0x0000
      { s with phase := if s.phase = .configured then .active else s.phase } := by
  rw [← afterChannelWrite_eq]
  rfl

/-! ### The commands that set up the module (R161 to R163) -/

/-- Settles O25: the two writes and the end of its plan, blk.dev_addr written before. -/
theorem constructExecutes : Obligations.ConstructExecutes := by
  intro dev s hp
  have ha : admitted (.construct dev) s = true :=
    admitted_of_gate ((gateOpen_construct_iff dev s.phase).mpr hp) rfl
  exact ⟨exec_write_plain ha rfl, exec_write_plain ha rfl, exec_finish_at ha rfl⟩

/-- Settles O26: the two writes and the end of its plan. -/
theorem softResetExecutes : Obligations.SoftResetExecutes := by
  intro s hp
  have ha : admitted .softReset s = true := admitted_of_gate (decide_eq_true hp) rfl
  exact ⟨exec_write_plain ha rfl, exec_write_plain ha rfl, exec_finish_at ha rfl⟩

/-- Settles O27: the four writes and the end of its plan, the prescale in its integer form
(`prescaleOf_eq`). -/
theorem setFrequencyExecutes : Obligations.SetFrequencyExecutes := by
  intro f s hp hlo hhi
  have ha := admitted_setFrequency hlo hhi hp
  rw [← prescaleOf_eq s.cfg.tie (by omega)]
  exact ⟨exec_write_plain ha rfl, exec_write_plain ha rfl, exec_write_plain ha rfl,
    exec_write_plain ha rfl, exec_finish_at ha rfl⟩

/-! ### The channel writes (R164, R165) -/

/-- The number of a window's register (R120). -/
theorem windowReg_eq_ofNat {ch : Channel} {k n : Nat} (hn : 6 + 4 * ch.val + k = n) :
    windowReg ch k = BitVec.ofNat 8 n := by
  rw [windowReg, channelBase, ← BitVec.ofNat_add, Nat.mul_comm, ← hn]
  rfl

/-- Byte `k` of a window, in the order of its registers (R97). -/
def windowByte (w : Window) : Fin 4 → Byte
  | 0 => w.onLow
  | 1 => w.onHigh
  | 2 => w.offLow
  | 3 => w.offHigh

/-- Transaction `k` of a channel write writes byte `k` of the window to its register `k` (R133). -/
theorem getElem?_writeChannelTxns (ch : Channel) (w : Window) (k : Fin 4) :
    (writeChannelTxns ch w)[k.val]? = some (.write (windowReg ch k.val) (windowByte w k)) := by
  match k with
  | 0 => simp [writeChannelTxns, windowReg, windowByte]
  | 1 | 2 | 3 => rfl

/-- Transaction `k` of a channel read reads register `k` of the window (R134). -/
theorem getElem?_readChannelTxns (ch : Channel) (k : Fin 4) :
    (readChannelTxns ch)[k.val]? = some (.read (windowReg ch k.val)) := by
  match k with
  | 0 => simp [readChannelTxns, windowReg]
  | 1 | 2 | 3 => rfl

/-- A command that writes the window `w` of channel `ch` and then ends does so byte by byte in ascending
order (R133, R164, R165). -/
theorem channelWrite_executes {i : Instr} {ch : Channel} {w : Window} {s : State}
    (ha : admitted i s = true) (ht : (planOf s.cfg i).txns = writeChannelTxns ch w)
    (he : entered i s = s) (hf : finishOf i s = finishChannelWrite s) :
    (s.seq = 0 → nextAnswer s = .plain → exec i s =
      .next (afterWrite (BitVec.ofNat 8 (6 + 4 * ch.val)) w.onLow s)) ∧
    (s.seq = 1 → nextAnswer s = .plain → exec i s =
      .next (afterWrite (BitVec.ofNat 8 (7 + 4 * ch.val)) w.onHigh s)) ∧
    (s.seq = 2 → nextAnswer s = .plain → exec i s =
      .next (afterWrite (BitVec.ofNat 8 (8 + 4 * ch.val)) w.offLow s)) ∧
    (s.seq = 3 → nextAnswer s = .plain → exec i s =
      .next (afterWrite (BitVec.ofNat 8 (9 + 4 * ch.val)) w.offHigh s)) ∧
    (s.seq = 4 → exec i s =
      .next (afterResponse 0x0000
        { s with phase := if s.phase = .configured then .active else s.phase })) := by
  have hwrite (k : Fin 4) {n : Nat} (hn : 6 + 4 * ch.val + k.val = n)
      (hq : s.seq = BitVec.ofNat 7 k.val) (hans : nextAnswer s = .plain) :
      exec i s = .next (afterWrite (BitVec.ofNat 8 n) (windowByte w k) s) := by
    have hk : (BitVec.ofNat 7 k.val).toNat = k.val := Nat.mod_eq_of_lt (by omega)
    rw [exec_write_plain ha (by rw [ht, hk]; exact getElem?_writeChannelTxns ch w k) hq hans, he,
      windowReg_eq_ofNat hn]
  refine ⟨hwrite 0 rfl, hwrite 1 (Nat.add_right_comm ..), hwrite 2 (Nat.add_right_comm ..),
    hwrite 3 (Nat.add_right_comm ..), fun hq => ?_⟩
  rw [exec_finish_at ha (by rw [ht]; rfl) hq, he, hf, finishChannelWrite_eq]

/-- The low byte of a step (R122). -/
theorem stepLow_ofNat (n : Nat) : stepLow (BitVec.ofNat 12 n) = BitVec.ofNat 8 (n % 256) := by
  refine BitVec.eq_of_toNat_eq ?_
  rw [toNat_stepLow, BitVec.toNat_ofNat, BitVec.toNat_ofNat]
  omega

/-- The high byte of a step (R122). -/
theorem stepHigh_ofNat {n : Nat} (hn : n < 4096) :
    stepHigh (BitVec.ofNat 12 n) = BitVec.ofNat 8 (n / 256) := by
  refine BitVec.eq_of_toNat_eq ?_
  rw [toNat_stepHigh, BitVec.toNat_ofNat, BitVec.toNat_ofNat]
  omega

/-- The four bytes of a pair of steps (R122). -/
theorem encodeStepPair_ofNat {on off : Nat} (hon : on < 4096) (hoff : off < 4096) :
    encodeStepPair ⟨BitVec.ofNat 12 on, BitVec.ofNat 12 off⟩ =
      ⟨BitVec.ofNat 8 (on % 256), BitVec.ofNat 8 (on / 256), BitVec.ofNat 8 (off % 256),
        BitVec.ofNat 8 (off / 256)⟩ := by
  rw [encodeStepPair, stepLow_ofNat, stepHigh_ofNat hon, stepLow_ofNat, stepHigh_ofNat hoff]

/-- Settles O28: the four window writes with the bytes of its two steps. -/
theorem writeStepsExecutes : Obligations.WriteStepsExecutes := by
  intro ch on off s hp hon hoff
  have ht := txns_writeSteps s.cfg ch on off
  rw [encodeStepPair_ofNat hon hoff] at ht
  exact channelWrite_executes (admitted_writeSteps hon hoff hp) ht rfl rfl

/-- A duty cycle within 0 and 1 is admitted once the module is set up (R160, R205). -/
theorem admitted_writeDutyCycle {ch : Channel} {n : Nat} {s : State} (hn : n ≤ 65536)
    (hp : s.phase ≠ .uninitialized) : admitted (.writeDutyCycle ch n) s = true := by
  refine admitted_of_gate (decide_eq_true hp) ?_
  simp only [planOf, writeDutyPlan, dutyError, q16One]
  exact if_neg (by omega)

/-- The window of a duty cycle: onStep 0, offStep the rounded product (R165, R128). -/
theorem txns_writeDutyCycle (cfg : Config) (ch : Channel) {n : Nat} (hn : n ≤ 65536) :
    (planOf cfg (.writeDutyCycle ch n)).txns = writeChannelTxns ch
      ⟨0x00, 0x00, BitVec.ofNat 8 (roundQuot cfg.tie (n * 4095) 65536 % 256),
        BitVec.ofNat 8 (roundQuot cfg.tie (n * 4095) 65536 / 256)⟩ :=
  congrArg (writeChannelTxns ch) (encodeStepPair_ofNat (on := 0) (by decide)
    (Nat.lt_succ_of_le (roundQuot_mul_le cfg.tie 4095 (by decide) hn)))

/-- Settles O29: the four window writes with the bytes of its duty cycle's steps. -/
theorem writeDutyCycleExecutes : Obligations.WriteDutyCycleExecutes := by
  intro ch n s hp hn
  exact channelWrite_executes (admitted_writeDutyCycle hn hp) (txns_writeDutyCycle s.cfg ch hn) rfl rfl

/-! ### The channel read (R166) -/

theorem byteIndex_ofNat (k : Fin 4) : byteIndex (BitVec.ofNat 7 k.val) = BitVec.ofNat 2 k.val := by
  revert k
  decide

/-- The numerator of a window's duty cycle is the gap of the two steps its bytes decode to (R129). -/
theorem stepsToDuty_decodeStepPair (w : Window) :
    stepsToDuty (decodeStepPair w) =
      ((stepValue w.onLow w.onHigh : Int) - (stepValue w.offLow w.offHigh : Int)).natAbs := by
  rw [stepsToDuty_eq, decodeStepPair, toNat_joinStep, toNat_joinStep]
  omega

/-- The word of an OK response is its result (R90, R91). -/
theorem rspWord_ok_ofNat {n : Nat} (hn : n < 4096) :
    rspWord .ok (BitVec.ofNat 12 n) = BitVec.ofNat 16 n := by
  refine BitVec.eq_of_toNat_eq ?_
  have happ : (rspWord .ok (BitVec.ofNat 12 n)).toNat = 0 <<< 12 ||| n % 4096 := BitVec.toNat_append ..
  rw [happ, Nat.zero_shiftLeft, Nat.zero_or, BitVec.toNat_ofNat]
  omega

theorem stepsToDuty_lt (p : StepPair) : stepsToDuty p < 4096 := by
  obtain ⟨-, -, -, h, -⟩ := stepsToDutyIsTheGap p
  omega

/-- Settles O30: the four window reads, and the gap of the two steps in the response. -/
theorem readDutyCycleExecutes : Obligations.ReadDutyCycleExecutes := by
  intro ch s hp
  have ha : admitted (.readDutyCycle ch) s = true := admitted_of_gate (decide_eq_true hp) rfl
  refine ⟨fun k hq hn => ?_, fun hq => ?_⟩
  · have hk : (BitVec.ofNat 7 k.val).toNat = k.val := Nat.mod_eq_of_lt (by omega)
    rw [exec_read_plain ha (by rw [hk]; exact getElem?_readChannelTxns ch k) hq hn, byteIndex_ofNat,
      windowReg_eq_ofNat rfl]
    rfl
  · rw [exec_finish_at ha rfl hq, ← stepsToDuty_decodeStepPair, ← rspWord_ok_ofNat (stepsToDuty_lt _)]
    rfl

/-! ### The channel reset (R167) -/

theorem roundQuot_zero (tie : TieRule) {den : Nat} (hd : 0 < den) : roundQuot tie 0 den = 0 := by
  simp [roundQuot, hd]

/-- A duty cycle of 0 clears its window, whatever the tie rule (R167, R128). -/
theorem writeDutyTxns_zero (cfg : Config) (ch : Channel) :
    writeDutyTxns cfg ch 0 = writeChannelTxns ch zeroWindow := by
  have hround : roundQuot cfg.tie (0 * Config.dutyDen) q16One = 0 := by
    rw [Nat.zero_mul, roundQuot_zero cfg.tie (by decide)]
  rw [writeDutyTxns, dutySteps, Int.toNat_zero, dutyToSteps, hround]
  rfl

/-- The sequence of `reset_all_channels` is 64 writes of 0 to the registers from 6 on (R167, R25). -/
theorem resetAllTxns_eq (cfg : Config) :
    resetAllTxns cfg = (List.range 64).map fun n => .write (BitVec.ofNat 8 (6 + n)) 0x00 := by
  simp only [resetAllTxns, writeDutyTxns_zero]
  decide

/-- Byte `n & 3` of channel `n >> 2` is register `6 + n` (R25, R120). -/
theorem windowReg_byteIndex {q : BitVec 7} {ch : Channel} (h : seqChannel q = ch.val) :
    windowReg ch (byteIndex q).toNat = BitVec.ofNat 8 (6 + q.toNat) := by
  have hch : q.toNat / 4 = ch.val := by
    rw [← h, seqChannel, BitVec.toNat_ushiftRight, Nat.shiftRight_eq_div_pow]
  have hk : (byteIndex q).toNat = q.toNat % 4 := by
    rw [byteIndex, BitVec.extractLsb'_toNat, Nat.shiftRight_zero]
  refine windowReg_eq_ofNat ?_
  omega

/-- Settles O31: transaction `n` and the end are read off the sequence written as a range
(`resetAllTxns_eq`). -/
theorem resetAllChannelsExecutes : Obligations.ResetAllChannelsExecutes := by
  intro s hp
  have ha : admitted .resetAllChannels s = true := admitted_of_gate (decide_eq_true hp) rfl
  refine ⟨fun hq hn => ?_, fun ch h => (windowReg_byteIndex h).symm, fun hq => ?_⟩
  · refine exec_write_plain ha ?_ rfl hn
    rw [planOf, resetAllPlan, resetAllTxns_eq, List.getElem?_map, List.getElem?_range hq]
    rfl
  · have hend : (planOf s.cfg .resetAllChannels).txns[(64 : BitVec 7).toNat]? = none :=
      List.getElem?_eq_none (length_txns s.cfg .resetAllChannels).le
    rw [exec_finish_at ha hend hq]
    exact congrArg _ (finishChannelWrite_eq s)

end Sys2Proof.Proofs

namespace Sys2Proof.Proofs

open Sys2Proof.Machine Sys2Proof.Laws

/-! ### Transactions done on a plain store (R65) -/

/-- The transaction `x` of the block, done on a plain store. -/
def plainTxn (s : State) (x : Txn) : State := answerOk x (targetByte s s.devAddr x.reg) .new [] s

/-- The transactions `xs` of the block, done in order on a plain store. -/
def plainTxns (xs : List Txn) (s : State) : State := xs.foldl plainTxn s

section PlainTxns

variable (xs : List Txn) (s : State)

/-- What each transaction keeps, all of them keep. -/
theorem plainTxns_keeps {α : Type} (f : State → α) (hf : ∀ s x, f (plainTxn s x) = f s) :
    f (plainTxns xs s) = f s := by
  induction xs generalizing s with
  | nil => rfl
  | cons x xs ih => exact (ih _).trans (hf s x)

@[simp] theorem plainTxns_cfg : (plainTxns xs s).cfg = s.cfg :=
  plainTxns_keeps xs s State.cfg fun _ _ => answerOk_cfg ..
@[simp] theorem plainTxns_devAddr : (plainTxns xs s).devAddr = s.devAddr :=
  plainTxns_keeps xs s State.devAddr fun _ _ => answerOk_devAddr ..
@[simp] theorem plainTxns_phase : (plainTxns xs s).phase = s.phase :=
  plainTxns_keeps xs s State.phase fun _ _ => answerOk_phase ..
@[simp] theorem plainTxns_busy : (plainTxns xs s).busy = s.busy :=
  plainTxns_keeps xs s State.busy fun _ _ => answerOk_busy ..
@[simp] theorem plainTxns_cmd : (plainTxns xs s).cmd = s.cmd :=
  plainTxns_keeps xs s State.cmd fun _ _ => answerOk_cmd ..
@[simp] theorem plainTxns_cmdIn : (plainTxns xs s).cmdIn = s.cmdIn :=
  plainTxns_keeps xs s State.cmdIn fun _ _ => answerOk_cmdIn ..
@[simp] theorem plainTxns_responses : (plainTxns xs s).responses = s.responses :=
  plainTxns_keeps xs s State.responses fun _ _ => answerOk_responses ..
@[simp] theorem plainTxns_agenda : (plainTxns xs s).agenda = s.agenda :=
  plainTxns_keeps xs s State.agenda fun _ _ => answerOk_agenda ..

theorem plainTxns_mem : (plainTxns xs s).mem =
    Memory.applyChanges s.cfg (plainChanges s.devAddr xs) s.mem := by
  induction xs generalizing s with
  | nil => rfl
  | cons x xs ih =>
    have hx : (plainTxn s x).mem = Memory.applyChanges s.cfg (x.changes s.devAddr .new []) s.mem :=
      answerOk_mem ..
    rw [plainTxns, List.foldl_cons, ← plainTxns, ih, hx, plainTxn, answerOk_cfg, answerOk_devAddr,
      ← applyChanges_append]
    rfl

theorem plainTxns_plainBus (h : s.plainBus) : (plainTxns xs s).plainBus := by
  induction xs generalizing s with
  | nil => exact h
  | cons x xs ih => exact ih _ fun a ha => h a (List.mem_of_mem_tail (by simpa [plainTxn] using ha))

end PlainTxns

/-- A command that keeps blk.dev_addr makes its transactions left on a plain store, one a step, and
ends (log 1). -/
theorem Executing.completes_plain {i : Instr} (hdev : ∀ s, entered i s = s) (xs : List Txn)
    {s : State} (h : Executing i s) (hp : s.plainBus)
    (hxs : (planOf s.cfg i).txns.drop s.seq.toNat = xs) :
    runSteps (xs.length + 1) s = .next (finishOf i (plainTxns xs s)) := by
  induction xs generalizing s with
  | nil =>
    have hx : (planOf s.cfg i).txns[s.seq.toNat]? = none :=
      List.getElem?_eq_none (List.drop_eq_nil_iff.mp hxs)
    refine runSteps_succ 0 ?_
    rw [step_busy h.busy h.undisturbed h.decoded, exec_finish h.admitted hx, hdev]
    rfl
  | cons x xs ih =>
    have hx : (planOf s.cfg i).txns[s.seq.toNat]? = some x := by
      rw [← Nat.add_zero s.seq.toNat, ← List.getElem?_drop, hxs]
      rfl
    have hs : step s = .next (plainTxn s x) := by
      rw [h.step_transact hx, hdev, transact_plain (nextAnswer_plainBus hp), plainTxn]
    have ht : Executing i (plainTxn s x) := hdev s ▸ executing_answerOk h x _ .new []
    refine (runSteps_succ _ hs).trans (ih ht (plainTxns_plainBus [x] s hp) ?_)
    rw [plainTxn, answerOk_cfg, answerOk_seq, (seq_succ_toNat hx).1, ← List.drop_drop, hxs]
    rfl

/-- The module is set up, the block idle and undisturbed, and the bus a plain store. -/
structure Ready (s : State) : Prop where
  setUp : s.phase ≠ .uninitialized
  idle : s.busy = false
  undisturbed : s.undisturbed
  plainBus : s.plainBus

/-- A ready block takes a command that keeps blk.dev_addr, makes its whole sequence, and ends it
(log 1). -/
theorem Ready.runs_command {i : Instr} {s : State} {rest : List CmdWord} (h : Ready s)
    (hw : i.wellFormed = true) (ha : admitted i s = true) (hdev : ∀ s, entered i s = s)
    (hc : s.cmdIn = encode i :: rest) :
    runSteps (sequenceLength i + 2) s =
      .next (finishOf i (plainTxns (planOf s.cfg i).txns (accept (encode i) rest s))) := by
  have hrun := (executing_accept hw ha h.undisturbed rest).completes_plain hdev
    (planOf s.cfg i).txns h.plainBus rfl
  rw [length_txns] at hrun
  exact (runSteps_succ _ (step_accept h.idle h.undisturbed hc)).trans hrun

/-- The OK end of a command leaves the module set up (R217). -/
theorem finishOf_phase_ne (i : Instr) {s : State} (h : s.phase ≠ .uninitialized) :
    (finishOf i s).phase ≠ .uninitialized := by
  cases i with
  | construct | setFrequency => nofun
  | softReset | readDutyCycle => exact h
  | writeSteps | writeDutyCycle | resetAllChannels =>
    exact fun he => h ((afterChannelWrite_eq_uninitialized s.phase).mp he)

/-- After a command the block is ready again. -/
theorem Ready.after_command {s : State} (h : Ready s) (i : Instr) (xs : List Txn) (w : CmdWord)
    (rest : List CmdWord) : Ready (finishOf i (plainTxns xs (accept w rest s))) where
  setUp := finishOf_phase_ne i (by simpa using h.setUp)
  idle := finishOf_busy ..
  undisturbed := (finishOf_agenda ..).trans ((plainTxns_agenda ..).trans h.undisturbed)
  plainBus := by
    rw [State.plainBus, finishOf_answers]
    exact plainTxns_plainBus xs _ h.plainBus

/-- Every command but `read_duty_cycle` ends with the OK word and result 0 (R90). -/
theorem finishOf_responses_zero {i : Instr} (hi : ∀ ch, i ≠ .readDutyCycle ch) (s : State) :
    (finishOf i s).responses = s.responses ++ [0x0000] := by
  cases i with
  | readDutyCycle ch => exact absurd rfl (hi ch)
  | _ => rfl

/-! ### `reset_all_channels` on a plain store (R167) -/

/-- An address that one of the changes names holds `b` after them, if all of them put `b`. -/
theorem byteAt_applyChanges_const {cfg : Config} {b : Byte} (cs : List TargetChange) (m : Memory)
    (hb : ∀ c ∈ cs, c.value = b) {a : Nat} (ha : ∃ c ∈ cs, cellKey cfg c.dev c.reg = a) :
    Memory.byteAt cfg (Memory.applyChanges cfg cs m) a = b := by
  induction cs generalizing m with
  | nil => simp at ha
  | cons c cs ih =>
    obtain ⟨hc, hcs⟩ := List.forall_mem_cons.mp hb
    rw [Memory.applyChanges]
    by_cases hlater : ∃ c ∈ cs, cellKey cfg c.dev c.reg = a
    · exact ih _ hcs hlater
    · rw [byteAt_applyChanges_ne cfg cs _ fun d hd hk => hlater ⟨d, hd, hk⟩]
      obtain ⟨d, hd, rfl⟩ := ha
      obtain rfl | hd := List.mem_cons.mp hd
      · rw [byteAt_store_same, hc]
      · exact absurd ⟨d, hd, rfl⟩ hlater

/-- The channel reset changes the registers 0x06 to 0x45 of one device, each to 0 (R167). -/
theorem mem_plainChanges_resetAllTxns {cfg : Config} {dev : DevAddr} {c : TargetChange} :
    c ∈ plainChanges dev (resetAllTxns cfg) ↔
      ∃ r : RegNum, (6 ≤ r.toNat ∧ r.toNat ≤ 69) ∧ c = ⟨dev, r, 0x00⟩ := by
  have hchanges (n : Nat) : (Txn.write (BitVec.ofNat 8 (6 + n)) 0x00).changes dev .new [] =
      [⟨dev, BitVec.ofNat 8 (6 + n), 0x00⟩] := rfl
  simp only [resetAllTxns_eq, plainChanges, List.flatMap_map, hchanges, List.mem_flatMap,
    List.mem_singleton, List.mem_range]
  constructor
  · rintro ⟨n, hn, rfl⟩
    refine ⟨_, ?_, rfl⟩
    rw [BitVec.toNat_ofNat]
    omega
  · rintro ⟨r, hr, rfl⟩
    refine ⟨r.toNat - 6, by omega, ?_⟩
    rw [Nat.add_sub_cancel' hr.1, BitVec.ofNat_toNat, BitVec.setWidth_eq]

/-- The whole run of a channel reset (log 1). -/
theorem Ready.resetAllChannels_run {s : State} {rest : List CmdWord} (h : Ready s)
    (hc : s.cmdIn = encode .resetAllChannels :: rest) :
    ∃ t, runSteps 66 s = .next t ∧ t.cfg = s.cfg ∧ t.responses = s.responses ++ [0x0000] ∧
      t.mem = Memory.applyChanges s.cfg (plainChanges s.devAddr (resetAllTxns s.cfg)) s.mem := by
  have ha : admitted .resetAllChannels s = true := admitted_of_gate (decide_eq_true h.setUp) rfl
  refine ⟨_, h.runs_command rfl ha (fun _ => rfl) hc, ?_, ?_, ?_⟩
  · rw [finishOf_cfg, plainTxns_cfg, accept_cfg]
  · rw [finishOf_responses_zero (by simp), plainTxns_responses, accept_responses]
  · rw [finishOf_mem, plainTxns_mem]
    rfl

/-- Settles O58: the run's 64 writes change the channel registers, each to 0, and no other
(`mem_plainChanges_resetAllTxns`). -/
theorem resetAllChannelsClearsEveryWindow : Obligations.ResetAllChannelsClearsEveryWindow := by
  intro s rest hp hb hu hplain hc
  obtain ⟨t, ht, hcfg, hr, hm⟩ := Ready.resetAllChannels_run ⟨hp, hb, hu, hplain⟩ hc
  refine ⟨t, ht, hr, fun reg hlo hhi => ?_, fun dev reg hk => ?_⟩ <;> rw [targetByte, hcfg, hm]
  · refine byteAt_applyChanges_const _ s.mem (fun c hc => ?_)
      ⟨_, mem_plainChanges_resetAllTxns.mpr ⟨reg, ⟨hlo, hhi⟩, rfl⟩, rfl⟩
    obtain ⟨r, -, rfl⟩ := mem_plainChanges_resetAllTxns.mp hc
    rfl
  · refine byteAt_applyChanges_ne s.cfg _ s.mem fun c hc => ?_
    obtain ⟨r, ⟨hlo, hhi⟩, rfl⟩ := mem_plainChanges_resetAllTxns.mp hc
    exact hk r hlo hhi

/-! ### `write_duty_cycle` then `read_duty_cycle` on a plain store (R165, R166) -/

/-- The four reads of a window latch its contents into the read buffer (R134). -/
theorem plainTxns_readChannelTxns_rd {ch : Channel} {s : State} (hq : s.seq = 0) :
    (plainTxns (readChannelTxns ch) s).rd = windowOf s s.devAddr ch := by
  have hreads : readChannelTxns ch = [.read (windowReg ch 0), .read (windowReg ch 1),
      .read (windowReg ch 2), .read (windowReg ch 3)] := by
    simp [readChannelTxns, windowReg]
  cases s
  cases hq
  rw [hreads]
  rfl

theorem wellFormed_writeDutyCycle {ch : Channel} {n : Nat} (hn : n ≤ 65536) :
    (Instr.writeDutyCycle ch n).wellFormed = true := by
  simp only [Instr.wellFormed, fitsSigned, Bool.and_eq_true, decide_eq_true_eq]
  omega

/-- The whole run of a duty cycle's write (log 1) leaves its steps in the window. -/
theorem Ready.writeDutyCycle_run {ch : Channel} {n : Nat} {s : State} {rest : List CmdWord}
    (h : Ready s) (hn : n ≤ 65536) (hc : s.cmdIn = encode (.writeDutyCycle ch n) :: rest) :
    ∃ t, runSteps 6 s = .next t ∧ Ready t ∧ t.responses = s.responses ++ [0x0000] ∧
      t.cmdIn = rest ∧ windowOf t t.devAddr ch = encodeStepPair (dutySteps s.cfg n) := by
  refine ⟨_, h.runs_command (wellFormed_writeDutyCycle hn) (admitted_writeDutyCycle hn h.setUp)
    (fun _ => rfl) hc, h.after_command .., ?_, ?_, ?_⟩
  · rw [finishOf_responses_zero (by simp), plainTxns_responses, accept_responses]
  · rw [finishOf_cmdIn, plainTxns_cmdIn, accept_cmdIn]
  · rw [finishOf_devAddr, plainTxns_devAddr, accept_devAddr]
    refine windowOf_windowChanges (s := s) (w := encodeStepPair (dutySteps s.cfg n)) (k := 4)
      ((finishOf_cfg ..).trans (plainTxns_cfg ..)) ?_
    rw [← plainChanges_writeChannelTxns, finishOf_mem, plainTxns_mem]
    rfl

/-- The whole run of a duty cycle's read (log 1) answers with the numerator of the window's steps. -/
theorem Ready.readDutyCycle_run {ch : Channel} {s : State} {rest : List CmdWord} (h : Ready s)
    (hc : s.cmdIn = encode (.readDutyCycle ch) :: rest) :
    ∃ t, runSteps 6 s = .next t ∧ t.responses = s.responses ++
      [rspWord .ok (BitVec.ofNat 12 (stepsToDuty (decodeStepPair (windowOf s s.devAddr ch))))] := by
  have ha : admitted (.readDutyCycle ch) s = true := admitted_of_gate (decide_eq_true h.setUp) rfl
  have hrd : (plainTxns (readChannelTxns ch) (accept (encode (.readDutyCycle ch)) rest s)).rd =
      windowOf s s.devAddr ch := plainTxns_readChannelTxns_rd (accept_seq ..)
  refine ⟨_, h.runs_command rfl ha (fun _ => rfl) hc, ?_⟩
  rw [← hrd]
  exact congrArg (· ++ [_]) (plainTxns_responses ..)

/-- Settles O57: the read finds in the window the steps the write left there
(`Ready.writeDutyCycle_run`, `Ready.readDutyCycle_run`), and their numerator is the rounded product,
within 1/2 of the product. -/
theorem dutyCycleReadsBack : Obligations.DutyCycleReadsBack := by
  intro ch n s rest hn hp hb hu hplain hc
  obtain ⟨t, ht, hready, hr, hc', hwin⟩ := Ready.writeDutyCycle_run ⟨hp, hb, hu, hplain⟩ hn hc
  obtain ⟨u, hu, hr'⟩ := hready.readDutyCycle_run hc'
  have hnum : stepsToDuty (decodeStepPair (windowOf t t.devAddr ch)) =
      roundQuot s.cfg.tie (n * 4095) 65536 := by
    rw [hwin, stepPairRoundTrip.1]
    exact stepsToDuty_dutyToSteps s.cfg.tie (by decide) hn
  refine ⟨u, _, (runSteps_add 6 6 ht).trans hu, roundQuot_mul_le s.cfg.tie 4095 (by decide) hn, ?_,
    two_mul_abs_roundQuot_sub_le s.cfg.tie (n * 4095) (by decide)⟩
  rw [hr', hr, hnum, List.append_assoc]
  rfl

end Sys2Proof.Proofs

namespace Sys2Proof.Proofs

open Sys2Proof.Machine Sys2Proof.Laws

/-! ### Which check a response comes from (R160, R203 to R205, R210) -/

/-- A gate is closed to `construct` outside Uninitialized and to every other command inside it (R160). -/
theorem gateOpen_eq_false_iff (i : Instr) (p : Phase) :
    gateOpen i p = false ↔
      ((∃ dev, i = .construct dev) ∧ p ≠ .uninitialized) ∨
      ((∀ dev, i ≠ .construct dev) ∧ p = .uninitialized) := by
  cases i <;> simp [gateOpen]

/-- A command its gate refuses answers `NotPermitted` and does nothing else (R209). -/
theorem exec_of_gate_closed {i : Instr} {s : State} (hg : gateOpen i s.phase = false) :
    exec i s = .next (raise .notPermitted s) := by
  rw [exec_eq_conduct, hg]
  rfl

/-- Past the gate, a command whose operands are rejected answers their status and does nothing else
(R203 to R205). -/
theorem exec_of_operandError {i : Instr} {s : State} {st : Status}
    (hg : gateOpen i s.phase = true) (he : (planOf s.cfg i).operandError = some st) :
    exec i s = .next (raise st s) := by
  rw [exec_eq_conduct, if_pos hg, conduct_error he, entered_of_operandError he]

section Response

variable {i : Instr} {s t : State} {st : Status} {r : BitVec 12}

/-- A response's status is that of the gate, of the operands, of the bus, or OK at the command's end. -/
theorem CommandStep.status_cases (h : CommandStep i s t)
    (hr : t.responses = s.responses ++ [rspWord st r]) :
    (st = .notPermitted ∧ gateOpen i s.phase = false) ∨
    (planOf s.cfg i).operandError = some st ∨
    st = busStatusOf i ∨
    (st = .ok ∧ gateOpen i s.phase = true ∧ t = finishOf i (entered i s)) := by
  cases h with
  | refused hg => exact .inl ⟨rspWord_status_inj (response_of_append hr), hg⟩
  | rejected hg he => exact .inr (.inl (rspWord_status_inj (response_of_append hr) ▸ he))
  | done ha hx b r also => simp at hr
  | failed ha hx r also =>
    rw [answerErr_responses, busError_planOf] at hr
    exact .inr (.inr (.inl (rspWord_status_inj (response_of_append hr))))
  | waiting ha => simp at hr
  | finished ha hx =>
    obtain ⟨q, hq⟩ := finishOf_responses i (entered i s)
    exact .inr (.inr (.inr ⟨rspWord_status_inj (response_of_append (hq.symm.trans hr)),
      gateOpen_of_admitted ha, rfl⟩))

/-- The status of a check before I/O comes from that check. -/
theorem CommandStep.rejection_cases (h : CommandStep i s t)
    (hr : t.responses = s.responses ++ [rspWord st r])
    (hst : (statusCode st).toNat ∈ [3, 4, 5, 8, 9]) :
    (st = .notPermitted ∧ gateOpen i s.phase = false) ∨
    (planOf s.cfg i).operandError = some st := by
  obtain hg | he | rfl | ⟨rfl, -⟩ := h.status_cases hr
  · exact .inl hg
  · exact .inr he
  · exact absurd hst (not_rejection_busStatusOf i)
  · exact absurd hst not_rejection_ok

/-- An operand status comes from the operand check. -/
theorem CommandStep.operandError_of_status (h : CommandStep i s t)
    (hr : t.responses = s.responses ++ [rspWord st r]) (hst : (statusCode st).toNat ∈ [3, 4, 5]) :
    (planOf s.cfg i).operandError = some st := by
  obtain ⟨rfl, -⟩ | he := h.rejection_cases hr (List.mem_append_left [8, 9] hst)
  · exact absurd hst (by decide)
  · exact he

/-- An OK response is the end of a command past its gate. -/
theorem CommandStep.finished_of_ok (h : CommandStep i s t)
    (hr : t.responses = s.responses ++ [rspWord .ok r]) :
    gateOpen i s.phase = true ∧ t = finishOf i (entered i s) := by
  obtain ⟨hst, -⟩ | he | hb | ⟨-, hf⟩ := h.status_cases hr
  · cases hst
  · obtain ⟨hst, -⟩ | ⟨hst, -⟩ | ⟨hst, -⟩ := operandError_cases he <;> cases hst
  · cases i <;> cases hb
  · exact hf

/-- Without an OK response the phase stays. -/
theorem CommandStep.phase_of_not_ok (h : CommandStep i s t)
    (hr : ∀ r, t.responses ≠ s.responses ++ [rspWord .ok r]) : t.phase = s.phase := by
  cases h with
  | finished ha hx =>
    obtain ⟨r, hok⟩ := finishOf_responses i (entered i s)
    exact absurd hok (hr r)
  | _ => simp

end Response

/-- Settles O35: the gate's two closed cases (`gateOpen_eq_false_iff`), and no operand check answers
`NotPermitted`. -/
theorem phaseGateRefuses : Obligations.PhaseGateRefuses := by
  refine ⟨fun dev s hp => ?_, fun i s hi hp => ?_, fun i s t he hr => ?_⟩
  · exact exec_of_gate_closed ((gateOpen_eq_false_iff ..).mpr (.inl ⟨⟨dev, rfl⟩, hp⟩))
  · exact exec_of_gate_closed ((gateOpen_eq_false_iff ..).mpr (.inr ⟨hi, hp⟩))
  · obtain ⟨-, hg⟩ | ho :=
      (exec_commandStep he).rejection_cases (st := .notPermitted) (r := 0) hr (by decide)
    · exact (gateOpen_eq_false_iff ..).mp hg
    · obtain ⟨hst, -⟩ | ⟨hst, -⟩ | ⟨hst, -⟩ := operandError_cases ho <;> cases hst

/-- Settles O36: the operand check of `set_frequency` fails exactly outside the range, and no other check
answers `InvalidFrequency`. -/
theorem invalidFrequencyIsRejected : Obligations.InvalidFrequencyIsRejected := by
  refine ⟨fun hz s hp hout => ?_, fun i s t he hr => ?_⟩
  · exact exec_of_operandError (i := .setFrequency hz) (decide_eq_true hp) (if_pos hout)
  · have ho :=
      (exec_commandStep he).operandError_of_status (st := .invalidFrequency) (r := 0) hr (by decide)
    obtain ⟨-, hf⟩ | ⟨hst, -⟩ | ⟨hst, -⟩ := operandError_cases ho
    · exact hf
    · cases hst
    · cases hst

/-- Settles O37: the operand check of `write_steps` fails exactly when a step is out of range, and no other
check answers `InvalidStepRange`. -/
theorem invalidStepRangeIsRejected : Obligations.InvalidStepRangeIsRejected := by
  refine ⟨fun ch on off s hp hout => ?_, fun i s t he hr => ?_⟩
  · exact exec_of_operandError (i := .writeSteps ch on off) (decide_eq_true hp)
      ((stepError_eq on off).trans (if_neg hout))
  · have ho :=
      (exec_commandStep he).operandError_of_status (st := .invalidStepRange) (r := 0) hr (by decide)
    obtain ⟨hst, -⟩ | ⟨-, hw⟩ | ⟨hst, -⟩ := operandError_cases ho
    · cases hst
    · exact hw
    · cases hst

/-- Settles O38: the operand check of `write_duty_cycle` fails exactly outside 0..1, and no other check
answers `InvalidDutyCycle`. -/
theorem invalidDutyCycleIsRejected : Obligations.InvalidDutyCycleIsRejected := by
  refine ⟨fun ch n s hp hout => ?_, fun i s t he hr => ?_⟩
  · exact exec_of_operandError (i := .writeDutyCycle ch n) (decide_eq_true hp) (if_pos hout)
  · have ho :=
      (exec_commandStep he).operandError_of_status (st := .invalidDutyCycle) (r := 0) hr (by decide)
    obtain ⟨hst, -⟩ | ⟨hst, -⟩ | ⟨-, hd⟩ := operandError_cases ho
    · cases hst
    · cases hst
    · exact hd

/-- Settles O41: an OK response is the command's end, which sets the table's phase (`finishOf_phase`); no
other way a step can go sets the phase; a refused cell is a closed gate. -/
theorem phaseTransitions : Obligations.PhaseTransitions := by
  refine fun i s t he => ⟨?_, (exec_commandStep he).phase_of_not_ok, fun hg => ?_⟩
  · rintro ⟨r, hr⟩
    obtain ⟨hg, rfl⟩ := (exec_commandStep he).finished_of_ok hr
    exact finishOf_phase (s := entered i s) hg
  · cases (exec_of_gate_closed hg).symm.trans he
    rfl

end Sys2Proof.Proofs

namespace Sys2Proof.Proofs

open Sys2Proof.Machine Sys2Proof.Laws

/-! ### Another master's move, by its answer (R218, R247) -/

section AnsweredOther

variable {s : State} (d : DevAddr) (x : Txn)

theorem otherMove_plain (h : nextAnswer s = .plain) :
    otherMove d x s =
      complete .other d x (x.okOutcome (targetByte s d x.reg)) .new [] s := by
  simp [otherMove, h]

theorem otherMove_ok {b : Byte} {r : Residue} {also : List TargetChange}
    (h : nextAnswer s = .ok b r also) :
    otherMove d x s = complete .other d x (x.okOutcome b) r also s := by
  simp [otherMove, h]

theorem otherMove_err {r : Residue} {also : List TargetChange} (h : nextAnswer s = .err r also) :
    otherMove d x s = complete .other d x .err r also s := by
  simp [otherMove, h]

end AnsweredOther

/-- What another master's transaction adds to the trace: its record, or nothing while the bus is silent. -/
def otherRecords (d : DevAddr) (x : Txn) (s : State) : List BusRecord :=
  match nextAnswer s with
  | .plain => [⟨.other, d, x, x.okOutcome (targetByte s d x.reg)⟩]
  | .ok b _ _ => [⟨.other, d, x, x.okOutcome b⟩]
  | .err _ _ => [⟨.other, d, x, .err⟩]
  | .silent => []

section OtherMove

variable (d : DevAddr) (x : Txn) (s : State)

/-- Another master's move changes the targets, the trace and the answers left, and no other field. -/
theorem otherMove_eq :
    otherMove d x s = { s with
      mem := (otherMove d x s).mem, trace := s.trace ++ otherRecords d x s,
      answers := s.answers.drop (otherRecords d x s).length } := by
  unfold otherMove otherRecords
  cases nextAnswer s <;> apply State.ext <;> simp

theorem otherRecords_length_le : (otherRecords d x s).length ≤ 1 := by
  unfold otherRecords
  split <;> simp

theorem otherRecords_eq_nil_iff : otherRecords d x s = [] ↔ nextAnswer s = .silent := by
  unfold otherRecords
  cases nextAnswer s <;> simp

variable {d x s}

theorem mem_otherRecords {q : BusRecord} (h : q ∈ otherRecords d x s) :
    q.master = .other ∧ q.dev = d ∧ q.txn = x := by
  unfold otherRecords at h
  cases hn : nextAnswer s with
  | silent => simp [hn] at h
  | _ =>
    rw [hn] at h
    obtain rfl := List.mem_singleton.mp h
    exact ⟨rfl, rfl, rfl⟩

/-- What the register a completed write addresses holds after it, whichever master made it (93 U1). -/
theorem targetByte_complete_write (m : Master) (reg : RegNum) (v : Byte) (o : BusOutcome) (r : Residue)
    (also : List TargetChange) :
    targetByte (complete m d (.write reg v) o r also s) d reg = leftBy r (targetByte s d reg) v :=
  targetByte_settle_write_leftBy (record m d (.write reg v) o (popAnswer s)) d reg v r also

/-- Another master's transaction changes at most the register it addresses and, by a read, those its answer
lists. -/
theorem targetByte_otherMove_ne {dev : DevAddr} {reg : RegNum}
    (hk : cellKey s.cfg d x.reg ≠ cellKey s.cfg dev reg)
    (hs : ∀ c ∈ x.sideEffects (nextAnswer s).also,
      cellKey s.cfg c.dev c.reg ≠ cellKey s.cfg dev reg) :
    targetByte (otherMove d x s) dev reg = targetByte s dev reg := by
  refine (otherMove_shown d x s).targetByte_eq (otherMove_cfg s d x) fun recs htr q hq => ?_
  obtain rfl : otherRecords d x s = recs :=
    List.append_cancel_left ((congrArg State.trace (otherMove_eq d x s)).symm.trans htr)
  obtain ⟨-, rfl, rfl⟩ := mem_otherRecords hq
  exact ⟨hk, hs⟩

end OtherMove

/-- Settles O12: the step is `otherMove`, which leaves every field of the block (`otherMove_eq`); the
targets hold what its completed transaction leaves. -/
theorem otherMastersLeaveTheBlockAlone : Obligations.OtherMastersLeaveTheBlockAlone := by
  intro s dev x he
  have hstep : step s = .next (otherMove dev x (popAgenda s)) := by rw [step, he, agentStep]
  have hbyte (d : DevAddr) (reg : RegNum) :
      targetByte { s with mem := (otherMove dev x (popAgenda s)).mem } d reg =
        targetByte (otherMove dev x (popAgenda s)) d reg := by
    simp [targetByte]
  refine ⟨(otherMove dev x (popAgenda s)).mem, otherRecords dev x s,
    hstep.trans (congrArg _ (otherMove_eq dev x (popAgenda s))),
    otherRecords_length_le dev x s, otherRecords_eq_nil_iff dev x s, fun q => mem_otherRecords,
    ?_, ?_, ?_, ?_, ?_⟩
  · rintro reg v rfl hn
    rw [hbyte, otherMove_plain dev _ (s := popAgenda s) hn]
    exact targetByte_complete_write ..
  · rintro reg rfl hn
    rw [otherMove_plain dev _ (s := popAgenda s) hn, otherRecords, hn]
    exact ⟨rfl, rfl⟩
  · rintro reg v b r also rfl hn
    rw [hbyte, otherMove_ok dev _ (s := popAgenda s) hn]
    exact targetByte_complete_write ..
  · rintro reg v r also rfl hn
    rw [hbyte, otherMove_err dev _ (s := popAgenda s) hn]
    exact targetByte_complete_write ..
  · intro dev' reg' hk hs
    rw [hbyte]
    exact targetByte_otherMove_ne (s := popAgenda s) hk hs

/-! ### Totality (R200, R213) -/

/-- Settles O13: over the agent that moves (`step_next`). -/
theorem everyStepHasANextState : Obligations.EveryStepHasANextState := step_next

end Sys2Proof.Proofs

namespace Sys2Proof.Proofs

open Sys2Proof.Machine Sys2Proof.Laws

/-! ### The reset input (R240, R257) -/

/-- On the host's reset the step is the reset input, the agenda's entry used up. -/
theorem step_of_reset {s : State} {tm : ResetTiming} (he : nextEvent s = .reset tm) :
    step s = .next (resetInput tm (popAgenda s)) := by
  rw [step, he, agentStep]

@[simp] theorem resetInput_phase (tm : ResetTiming) (s : State) :
    (resetInput tm s).phase = .uninitialized := by
  cases tm <;> simp [resetInput]

/-- Settles O10: the reset state by its fields; between two transactions the reset input is `resetBlock`,
which touches the block's registers alone. -/
theorem resetReturnsToUninitialized : Obligations.ResetReturnsToUninitialized :=
  ⟨⟨rfl, rfl, rfl, rfl⟩, fun _ he => ⟨_, step_of_reset he, by simp [resetInput]⟩⟩

/-! ### The transaction a reset abandons (R257, 93 U18) -/

/-- An outstanding transaction is completed with its outcome discarded and without side effects. -/
theorem abandonTxn_of_pending {s : State} {d : DevAddr} {x : Txn} (l : Bool)
    (hp : pendingTxn s = some (d, x)) :
    abandonTxn l s =
      complete .block d x .discarded (if l then (nextAnswer s).landedResidue else .old) [] s := by
  simp [abandonTxn, hp]

/-- The register an abandoned write addresses: drawn by its answer if it had reached the target, else
untouched. -/
theorem targetByte_abandonTxn_write {s : State} {d : DevAddr} {reg : RegNum} {v : Byte} (l : Bool)
    (hp : pendingTxn s = some (d, .write reg v)) :
    targetByte (abandonTxn l s) d reg =
      if l then leftBy (nextAnswer s).landedResidue (targetByte s d reg) v
      else targetByte s d reg := by
  rw [abandonTxn_of_pending l hp, targetByte_complete_write]
  cases l <;> rfl

/-- The draw of an abandoned write is the old byte or the new one (R257). -/
theorem leftBy_landedResidue (a : BusAnswer) (held new : Byte) :
    leftBy a.landedResidue held new = held ∨ leftBy a.landedResidue held new = new := by
  obtain h | h := landedResidue_cases a <;> rw [h]
  · exact .inl rfl
  · exact .inr rfl

/-- A read writes no byte, so with residue `old` or `new` and no side effect it changes nothing. -/
theorem changes_read_eq_nil (d : DevAddr) (reg : RegNum) {r : Residue} (h : r = .old ∨ r = .new) :
    (Txn.read reg).changes d r [] = [] := by
  obtain rfl | rfl := h <;> rfl

/-- A reset changes no register but the one that the write it abandons addresses; under a read, none. -/
theorem targetByte_abandonTxn_ne {s : State} {dev : DevAddr} {reg : RegNum} (l : Bool)
    (h : ∀ d r v, pendingTxn s = some (d, .write r v) →
      cellKey s.cfg d r ≠ cellKey s.cfg dev reg) :
    targetByte (abandonTxn l s) dev reg = targetByte s dev reg := by
  obtain ⟨-, ht⟩ | ⟨d, x, r, hp, hr, -, ht⟩ := abandonTxn_cases l s <;> rw [ht]
  cases x with
  | write reg' v =>
    exact targetByte_settle_write_ne (record .block d (.write reg' v) .discarded (popAnswer s)) v r []
      (h d reg' v hp)
  | read reg' =>
    refine targetByte_congr (complete_cfg ..) ?_ dev reg
    rw [complete_mem, changes_read_eq_nil d reg' hr, Memory.applyChanges]

/-- Settles O11: the reset input abandons the outstanding transaction and resets the block, which changes no
target; the byte a write leaves is `targetByte_abandonTxn_write`, the frame `targetByte_abandonTxn_ne`. -/
theorem resetAbandonsTheRunningCommand : Obligations.ResetAbandonsTheRunningCommand := by
  intro s landed he
  have hbyte (dev : DevAddr) (reg : RegNum) :
      targetByte (resetInput (.duringTransaction landed) (popAgenda s)) dev reg =
        targetByte (abandonTxn landed (popAgenda s)) dev reg := rfl
  refine ⟨_, step_of_reset he, resetInput_phase .., resetInput_busy .., resetInput_responses ..,
    fun dev reg v hp => ?_, fun dev reg hk => ?_⟩
  · rw [hbyte, targetByte_abandonTxn_write (s := popAgenda s) landed hp]
    refine ⟨?_, rfl⟩
    cases landed with
    | false => exact .inl rfl
    | true => exact leftBy_landedResidue ..
  · rw [hbyte]
    exact targetByte_abandonTxn_ne (s := popAgenda s) landed hk

/-! ### The invariant in every run from reset (R246) -/

/-- The machine after reset meets the invariant whatever its parameters and its environment: it has no
listed cell, no transaction and no command. -/
theorem inv_reset (cfg : Config) (words : List CmdWord) (answers : List BusAnswer)
    (agenda : List Event) :
    { State.reset with cfg := cfg, cmdIn := words, answers := answers, agenda := agenda }.Inv where
  memory := rfl
  sequencer := sequencerOk_of_idle rfl
  emitted := rfl
  slept := rfl
  sleeping := sleepPending_of_idle rfl

/-- Settles O48: `inv_reset` at the default parameters and the empty environment. -/
theorem invariantHoldsAtReset : Obligations.InvariantHoldsAtReset :=
  inv_reset Config.default [] [] []

/-- No run changes the parameters (R172). -/
theorem runSteps_cfg (n : Nat) {s t : State} (h : runSteps n s = .next t) : t.cfg = s.cfg :=
  runSteps_induction (P := fun u => u.cfg = s.cfg)
    (fun _ _ hu hs => (step_move hs).cfg.trans hu) n rfl h

/-- Settles O50: the run keeps the invariant it starts with (`inv_reset`), whose clause `slept` says it, and
the parameters. -/
theorem prescaleFollowsTheBlocksOwnSleepWrite :
    Obligations.PrescaleFollowsTheBlocksOwnSleepWrite := by
  intro n cfg words answers agenda t h
  have hinv : t.Inv :=
    runSteps_induction everyStepKeepsTheInvariant n (inv_reset cfg words answers agenda) h
  obtain rfl : t.cfg = cfg := runSteps_cfg n h
  exact hinv.slept

end Sys2Proof.Proofs
